-- ==== Sys2Proof/Word.lean ====
section
/-! DEFINITION. The core's word types: a register is a 32-bit number (10_state R17), a key byte 8 bits. -/

namespace Sys2Proof

/-- A host-visible register, a command word, a half-block or an S-box entry: 32 bits (R12, R17). -/
abbrev Word := BitVec 32

/-- One byte of a key or of a block, or an element of GF(2^8) (R12). -/
abbrev Byte := BitVec 8

/-- A GF(2^8) modulus, the bits of a polynomial (R12, R85). -/
abbrev Modulus := BitVec 9

/-- An expansion value or one word of a subkey (R12). -/
abbrev Half20 := BitVec 20

end Sys2Proof
end

