-- ==== Sys2Proof/Syntax.lean ====
section
/-! DEFINITION. The commands (30_encoding R69), one constructor per row of the opcode table, and the assembler's statements (R76). -/

namespace Sys2Proof

/-- The ten commands with the arguments their words carry (R68, R69). ARG is an unsigned 16-bit number;
SBOXRD's is `c ‖ index`. The widths are the fields' own, so every term is a command. -/
inductive Instr where
  | nop
  /-- CONFIG `n`: the strength level (R83). -/
  | config (n : BitVec 16)
  /-- SETKEY `len`: the key length in bytes the host claims (R108). -/
  | setkey (len : BitVec 16)
  /-- ENCRYPT `len`: the block length in bytes the host claims (R119). -/
  | encrypt (len : BitVec 16)
  /-- DECRYPT `len`: the block length in bytes the host claims (R120). -/
  | decrypt (len : BitVec 16)
  | gfmul
  | gfexp7
  | perm32
  /-- SBOXRD `c, index`: column and row of the S-box (R100). -/
  | sboxrd (c : BitVec 2) (index : BitVec 10)
  | ftest
  deriving DecidableEq, Repr

/-- The assembler's command statements (R76). Their numbers are as the programmer wrote them; `AsmCmd.wellFormed`
says which fit, and `assemble` gives the word. -/
inductive AsmCmd where
  | nop
  | config (n : Nat)
  | setkey (len : Nat)
  | encrypt (len : Nat)
  | decrypt (len : Nat)
  | gfmul
  | gfexp7
  | perm32
  | sboxrd (c index : Nat)
  | ftest
  /-- `.cmd w`: the raw word, reserved encodings included. -/
  | raw (w : Nat)
  deriving DecidableEq, Repr

/-- The pseudo-instruction `ice.encrypt` without a length (R78). -/
def AsmCmd.encryptBlock : AsmCmd := .encrypt 8

/-- The pseudo-instruction `ice.decrypt` without a length (R78). -/
def AsmCmd.decryptBlock : AsmCmd := .decrypt 8

end Sys2Proof
end

