-- ==== Sys2Proof/WellFormed.lean ====
section
/-! DEFINITION. What is well formed: a command word (30_encoding R70) and an assembler statement (R76). An `Instr` needs no
check of its own, since its fields carry their widths. -/

namespace Sys2Proof

/-- A command word is legal when none of R70's conditions holds. -/
def legalWord (w : Word) : Bool :=
  w.extractLsb 31 24 == 0 && w.extractLsb 7 4 == 0
    && decide (w.extractLsb 3 0 < 0xA)
    && (!([0x0, 0x5, 0x6, 0x7, 0x9].contains (w.extractLsb 3 0)) || w.extractLsb 23 8 == 0)
    && (!(w.extractLsb 3 0 == 0x8) || w.extractLsb 23 20 == 0)

/-- The ranges of R76's operands: 16-bit numbers, a column 0..3, a row 0..1023, a 32-bit raw word. -/
def AsmCmd.wellFormed : AsmCmd → Bool
  | .nop | .gfmul | .gfexp7 | .perm32 | .ftest => true
  | .config n => decide (n ≤ 65535)
  | .setkey len => decide (len ≤ 65535)
  | .encrypt len => decide (len ≤ 65535)
  | .decrypt len => decide (len ≤ 65535)
  | .sboxrd c index => decide (c ≤ 3) && decide (index ≤ 1023)
  | .raw w => decide (w < 2 ^ 32)

end Sys2Proof
end

