-- ==== Sys2Proof/Decode.lean ====
section
/-! DEFINITION. The decoder of command words (30_encoding R67, R71), total and rejecting by name; the encoder and the
assembler (R76) after it. -/

namespace Sys2Proof

/-- Why a word is no command: the conditions of R70. The core reports all of them as E_ILLEGAL (R133). -/
inductive Illegal where
  /-- RSV1, bits [31:24], is not 0. -/
  | reservedHigh
  /-- RSV0, bits [7:4], is not 0. -/
  | reservedLow
  /-- OPC is 0xA to 0xF. -/
  | opcode
  /-- ARG is not 0 though the command takes none. -/
  | argument
  /-- SBOXRD with ARG[15:12] not 0. -/
  | sboxArgument
  deriving DecidableEq, Repr

/-- OPC, bits [3:0] of a command word (R67). -/
def opcOf (w : Word) : BitVec 4 := w.extractLsb' 0 4

/-- ARG, bits [23:8] of a command word (R67, R68). -/
def argOf (w : Word) : BitVec 16 := w.extractLsb' 8 16

/-- A command that takes no argument: ARG must be 0 (R70). -/
def decodePlain (arg : BitVec 16) (i : Instr) : Except Illegal Instr :=
  if arg = 0#16 then .ok i else .error .argument

/-- SBOXRD's ARG: `ARG[15:12]` must be 0, then `c ‖ index` (R68, R70). -/
def decodeSboxrd (arg : BitVec 16) : Except Illegal Instr :=
  if arg.extractLsb' 12 4 = 0#4 then .ok (.sboxrd (arg.extractLsb' 10 2) (arg.extractLsb' 0 10)) else .error .sboxArgument

/-- What an opcode and its ARG stand for (R69). -/
def decodeOp (opc : BitVec 4) (arg : BitVec 16) : Except Illegal Instr :=
  match opc.toNat with
  | 0x0 => decodePlain arg .nop
  | 0x1 => .ok (.config arg)
  | 0x2 => .ok (.setkey arg)
  | 0x3 => .ok (.encrypt arg)
  | 0x4 => .ok (.decrypt arg)
  | 0x5 => decodePlain arg .gfmul
  | 0x6 => decodePlain arg .gfexp7
  | 0x7 => decodePlain arg .perm32
  | 0x8 => decodeSboxrd arg
  | 0x9 => decodePlain arg .ftest
  | _ => .error .opcode

/-- R71's Decode: the reserved fields first, then the opcode, then what the opcode asks of ARG. -/
def decode (w : Word) : Except Illegal Instr :=
  if w.extractLsb' 24 8 ≠ 0#8 then .error .reservedHigh
  else if w.extractLsb' 4 4 ≠ 0#4 then .error .reservedLow
  else decodeOp (opcOf w) (argOf w)

/-- The word with the given ARG and OPC and both reserved fields 0 (R67). -/
def cmdWord (arg : BitVec 16) (opc : BitVec 4) : Word := 0#8 ++ arg ++ 0#4 ++ opc

/-- The word of a command (R69, R76). -/
def encode : Instr → Word
  | .nop => cmdWord 0 0x0
  | .config n => cmdWord n 0x1
  | .setkey len => cmdWord len 0x2
  | .encrypt len => cmdWord len 0x3
  | .decrypt len => cmdWord len 0x4
  | .gfmul => cmdWord 0 0x5
  | .gfexp7 => cmdWord 0 0x6
  | .perm32 => cmdWord 0 0x7
  | .sboxrd c index => cmdWord (0#4 ++ c ++ index) 0x8
  | .ftest => cmdWord 0 0x9

/-- The word an assembler statement stands for (R76): none where a number is out of range. -/
def assemble (c : AsmCmd) : Option Word :=
  if c.wellFormed then
    some <|
      match c with
      | .nop => 0x00000000
      | .config n => BitVec.ofNat 32 (n <<< 8 ||| 0x1)
      | .setkey len => BitVec.ofNat 32 (len <<< 8 ||| 0x2)
      | .encrypt len => BitVec.ofNat 32 (len <<< 8 ||| 0x3)
      | .decrypt len => BitVec.ofNat 32 (len <<< 8 ||| 0x4)
      | .gfmul => 0x00000005
      | .gfexp7 => 0x00000006
      | .perm32 => 0x00000007
      | .sboxrd col index => BitVec.ofNat 32 ((col <<< 10 ||| index) <<< 8 ||| 0x8)
      | .ftest => 0x00000009
      | .raw w => BitVec.ofNat 32 w
  else none

/-- The low `nbits` bits of `w` as a command word: a command is one 32-bit word (R67, R72), so its bit numbers are
the opcode table's. -/
def tableWord (nbits w : Nat) : Word := BitVec.ofNat 32 (w % 2 ^ nbits)

/-- The command the decoder reads from a word of the opcode table. A longer word than 32 bits is no command. -/
def decodeTableWord (nbits w : Nat) : Option Instr :=
  if w % 2 ^ nbits < 2 ^ 32 then (decode (tableWord nbits w)).toOption else none

end Sys2Proof
end

