-- ==== Sys2Proof/Config.lean ====
section
/-! DEFINITION. What one build of the core fixes (00_scope R7), and the values the spec leaves free. -/

namespace Sys2Proof

/-- The parameters of one build of the core that a rule depends on (R7). A model takes them as an
argument: they are plain data in `State.cfg`, and no step changes them (log 2). -/
structure Params where
  /-- `N_MAX - 2`: every value stands for a legal `N_MAX` (D4: 2 to 65535), and every legal one has a value. -/
  nMaxOff  : Fin 65534
  /-- `ICE_BASE / 4096`: the aperture's base is 4096-byte aligned (R52). -/
  basePage : Nat
  /-- `INIT_LAT`: finite, at least 0 (R147); only whether it is 0 can be observed (R23). -/
  initLat  : Nat
  deriving DecidableEq, Repr

/-- `N_MAX`, the largest strength level the core accepts (R7, D4). -/
def Params.nMax (p : Params) : Nat := p.nMaxOff.val + 2

/-- `ICE_BASE`, the bus address of the aperture (R52). -/
def Params.base (p : Params) : Nat := 4096 * p.basePage

/-- The size of the key buffer in bytes (R7, R44). -/
def Params.keybufBytes (p : Params) : Nat := max 16 (8 * p.nMax)

/-- The number of subkey slots (R7, R46). -/
def Params.ksSlots (p : Params) : Nat := 16 * p.nMax

/-- The length of the aperture: the smallest multiple of 4096 that is at least 0x100 + KEYBUF_BYTES (R52). -/
def Params.apertureBytes (p : Params) : Nat := (0x100 + p.keybufBytes + 4095) / 4096 * 4096

namespace Config

/-- Free: the platform's `N_MAX - 2` (U12). -/
opaque nMaxOff : Fin 65534

/-- Free: the page of the platform's `ICE_BASE` (U13). -/
opaque basePage : Nat

/-- Free: the platform's `INIT_LAT` (U15). -/
opaque initLat : Nat

/-- Free: the value the `n`-th unspecified read returns, before the register's meaningful bits are taken (R150, U4; log 5). -/
opaque freeRead : Nat → Word

/-- The build `State.reset` stands for: any one. -/
def platform : Params := { nMaxOff := nMaxOff, basePage := basePage, initLat := initLat }

end Config

end Sys2Proof
end

