-- ==== Sys2Proof/Machine/State.lean ====
section
/-! DEFINITION. Everything the spec gives the core to hold (10_state), the port and the inputs, as plain data; the reasons a
step can stop; and the state after reset (R50). -/

namespace Sys2Proof.Machine

/-- The error codes of STATUS.ERR (R131). Codes 6 to 15 are reserved and never written (U8), so they are no values here. -/
inductive ErrCode where
  /-- 0: the command succeeded. -/
  | ok
  /-- 1: the command word is illegal (R70). -/
  | illegal
  /-- 2: SETKEY's claimed key length is not KEYLEN. -/
  | keylen
  /-- 3: ENCRYPT's or DECRYPT's claimed block length is not 8. -/
  | blocklen
  /-- 4: CONFIG's level is above N_MAX. -/
  | level
  /-- 5: GF_M[8] is 0 at a GFMUL or GFEXP7. -/
  | operand
  deriving DecidableEq, Repr

/-- One subkey slot: three 20-bit words (R46). -/
structure Subkey where
  w0 : Half20
  w1 : Half20
  w2 : Half20
  deriving DecidableEq, Repr

/-- The slot "allocates zeroed schedule" leaves (R46). -/
def Subkey.zero : Subkey := ⟨0, 0, 0⟩

/-- The key buffer's storage: (byte number, byte), byte numbers strictly rising, no entry 0 (log 14). An unlisted byte is 0,
the reset contents (R44). -/
abbrev Memory := List Host.Cell

/-- The key schedule: (slot, subkey), slots strictly rising, no entry the zero slot (log 14). An unlisted slot is zero,
the reset contents (R46). -/
abbrev Schedule := List (Nat × Subkey)

/-- The host-visible registers (R17). -/
inductive Reg where
  | cmd | status | ctrl | size | rounds | keylen | nmax | id
  | din0 | din1 | dout0 | dout1
  | gfA | gfB | gfM | gfRes
  | permIn | permOut | sboxOut
  | fIn | sk0 | sk1 | sk2 | fOut
  /-- An offset with no register (R43). -/
  | reserved
  /-- KEYBUF[w] (R44). -/
  | keybuf (w : Nat)
  deriving DecidableEq, Repr

/-- What a bus access does. The data of a write wider or narrower than a register is never used (R54). -/
inductive AccessKind where
  | read
  | write (v : Word)
  deriving DecidableEq, Repr

/-- One host bus access as the slave port receives it: bus address, width in bytes, direction and data (R16, R51). -/
structure Access where
  addr  : Nat
  bytes : Nat
  kind  : AccessKind
  deriving DecidableEq, Repr

/-- What happens next outside the sequencer (log 4). -/
inductive Input where
  /-- The host's next bus access. -/
  | access (a : Access)
  /-- Time passes: the sequencer makes the move it is due, if any. -/
  | tick
  /-- The reset input takes this level (R146). -/
  | rst (level : Bool)
  deriving DecidableEq, Repr

/-- The slave port's response to the last access it served (R16; log 7). -/
inductive Reply where
  /-- No access was served yet. -/
  | none
  /-- A write was served. -/
  | written
  /-- A read returned this value. -/
  | data (v : Word)
  /-- The error response of R54. -/
  | busError
  deriving DecidableEq, Repr

/-- The machine. -/
structure State where
  /-- The build's parameters: constant. -/
  cfg : Params
  /-- STATUS.DONE (R24). -/
  done : Bool
  /-- STATUS.OVR (R25). -/
  ovr : Bool
  /-- STATUS.KEYED (R26). -/
  keyed : Bool
  /-- STATUS.ERR (R27). -/
  err : ErrCode
  /-- CTRL.IE (R28). -/
  ie : Bool
  /-- SIZE (R29). -/
  size : Word
  /-- ROUNDS (R30). -/
  rounds : Word
  /-- KEYLEN (R31). -/
  keylen : Word
  /-- DIN0 (R35). -/
  din0 : Word
  /-- DIN1 (R35). -/
  din1 : Word
  /-- DOUT0 (R36). -/
  dout0 : Word
  /-- DOUT1 (R36). -/
  dout1 : Word
  /-- GF_A (R37). -/
  gfA : Byte
  /-- GF_B (R37). -/
  gfB : Byte
  /-- GF_M (R37). -/
  gfM : Modulus
  /-- GF_RES (R38). -/
  gfRes : Byte
  /-- PERM_IN (R39). -/
  permIn : Word
  /-- PERM_OUT (R39). -/
  permOut : Word
  /-- SBOX_OUT (R40). -/
  sboxOut : Word
  /-- F_IN (R41). -/
  fIn : Word
  /-- SK0 (R41). -/
  sk0 : Half20
  /-- SK1 (R41). -/
  sk1 : Half20
  /-- SK2 (R41). -/
  sk2 : Half20
  /-- F_OUT (R42). -/
  fOut : Word
  /-- KEYBUF's bytes (R44, R45). -/
  keybuf : Memory
  /-- KS (R46). -/
  ks : Schedule
  /-- The post-reset initialisation is in progress (R147). -/
  initialising : Bool
  /-- INFLIGHT (R48). -/
  inflight : Bool
  /-- PCMD (R48). -/
  pcmd : Word
  /-- The level of the reset input (R16, R146). -/
  rst : Bool
  /-- What happens next outside the sequencer, first first: the model's own (log 4). -/
  inputs : List Input
  /-- The slave port's response to the last access (log 7). -/
  reply : Reply
  /-- How many unspecified reads were served: the model's own (log 5). -/
  draws : Nat
  deriving DecidableEq, Repr

/-- Why a step stops. Both are about the host or the platform; no command raises one. -/
inductive Fault where
  /-- Raised by a host access while `rst` is asserted, which the platform must not issue and the spec gives no step
  (R146, U7: stuck). Safe: a claim about such a run cannot be proved (log 10). -/
  | accessDuringReset
  /-- Raised by a host access at an address outside the aperture, which does not reach the core (R52).
  Safe: the model stops where the platform goes on without the core (log 9). -/
  | outsideAperture
  deriving DecidableEq, Repr

/-- Why a step has no meaning. -/
inductive Refusal where
  /-- Raised by `exec` for a command that has no meaning yet. Safe: nothing can be proved of its effect. -/
  | notModelled (mnemonic : String)
  deriving DecidableEq, Repr

/-- The state right after reset of the build `p` (R50). -/
def State.resetOf (p : Params) : State where
  cfg := p
  done := false
  ovr := false
  keyed := false
  err := .ok
  ie := false
  size := 1
  rounds := 8
  keylen := 16
  din0 := 0
  din1 := 0
  dout0 := 0
  dout1 := 0
  gfA := 0
  gfB := 0
  gfM := 0
  gfRes := 0
  permIn := 0
  permOut := 0
  sboxOut := 0
  fIn := 0
  sk0 := 0
  sk1 := 0
  sk2 := 0
  fOut := 0
  keybuf := []
  ks := []
  initialising := decide (0 < p.initLat)
  inflight := false
  -- DESIGN CHOICE (log 6): the spec leaves PCMD unspecified at reset and never reads it while idle.
  pcmd := 0
  rst := false
  -- DESIGN CHOICE (log 4): nothing is pending outside the sequencer.
  inputs := []
  -- DESIGN CHOICE (log 7): no access was served yet.
  reply := .none
  -- DESIGN CHOICE (log 5): no free value was drawn yet.
  draws := 0

/-- The machine right after reset (R50), of a build whose parameters the spec leaves open (log 2). -/
def State.reset : State := State.resetOf Config.platform

end Sys2Proof.Machine
end

