-- ==== Sys2Proof/Machine/Flags.lean ====
section
/-! DEFINITION. STATUS and CTRL: the fields' computation, the word the host reads, write-1-to-clear, and `irq` (10_state
section 3). -/

namespace Sys2Proof.Machine

/-- The 4-bit code of an error (R131). -/
def ErrCode.code : ErrCode → BitVec 4
  | .ok => 0
  | .illegal => 1
  | .keylen => 2
  | .blocklen => 3
  | .level => 4
  | .operand => 5

/-- STATUS.BUSY: a command is in flight, or the core is initialising (R23). -/
def State.busy (s : State) : Bool := s.inflight || s.initialising

/-- The word a read of STATUS returns (R22): ERR in [7:4], KEYED, OVR, DONE, BUSY below it, the rest 0. -/
def State.statusWord (s : State) : Word :=
  0#24 ++ s.err.code ++ BitVec.ofBool s.keyed ++ BitVec.ofBool s.ovr ++ BitVec.ofBool s.done ++ BitVec.ofBool s.busy

/-- The word a read of CTRL returns (R28). -/
def State.ctrlWord (s : State) : Word := (BitVec.ofBool s.ie).setWidth 32

/-- A host write to STATUS: a 1 in bit 1 clears DONE, a 1 in bit 2 clears OVR, every other bit is ignored
(R22, R24, R25). This is how a completion is acknowledged (R136). -/
def State.writeStatus (v : Word) (s : State) : State :=
  { s with done := s.done && !v.getLsbD 1, ovr := s.ovr && !v.getLsbD 2 }

/-- A host write to CTRL: bit 0 is IE, the rest is ignored (R28). -/
def State.writeCtrl (v : Word) (s : State) : State := { s with ie := v.getLsbD 0 }

/-- STATUS.OVR is set: a host write was ignored because BUSY was 1 (R25). -/
def State.setOvr (s : State) : State := { s with ovr := true }

/-- The interrupt output, the level `STATUS.DONE & CTRL.IE` (R49, R138). -/
def State.irq (s : State) : Bool := s.done && s.ie

end Sys2Proof.Machine
end

