-- ==== Sys2Proof/Machine/Ops.lean ====
section
/-! DEFINITION. The shared operations: memories in canonical form; a command's acceptance, completion and error (30_encoding
R73, R74, 60_exceptions R132); the end of initialisation and the reset input (70_reset R146, R147). -/

namespace Sys2Proof.Machine

/-! Sparse memories. `d` is what an unlisted key reads as. -/

/-- The value at key `a`. -/
def sparseRead {α : Type} (d : α) : List (Nat × α) → Nat → α
  | [], _ => d
  | (k, v) :: rest, a => if k = a then v else sparseRead d rest a

/-- Writes `x` at key `a`: writing `d` takes the entry out, so that equal memories are equal lists. -/
def sparseWrite {α : Type} [DecidableEq α] (d : α) : List (Nat × α) → Nat → α → List (Nat × α)
  | [], a, x => if x = d then [] else [(a, x)]
  | (k, v) :: rest, a, x =>
    if a < k then (if x = d then (k, v) :: rest else (a, x) :: (k, v) :: rest)
    else if a = k then (if x = d then rest else (a, x) :: rest)
    else (k, v) :: sparseWrite d rest a x

/-- The canonical form: keys in `[lo, hi)`, strictly rising, no entry `d`. -/
def sparseWf {α : Type} [DecidableEq α] (d : α) (hi : Nat) : Nat → List (Nat × α) → Bool
  | _, [] => true
  | lo, (k, v) :: rest => decide (lo ≤ k) && decide (k < hi) && decide (v ≠ d) && sparseWf d hi (k + 1) rest

/-- What a byte of KEYBUF that nothing has written reads as: the reset value 0 (R44). -/
def Memory.unlisted : Byte := 0

/-- Key byte `a` (R45). -/
def Memory.read (m : Memory) (a : Nat) : Byte := sparseRead Memory.unlisted m a

/-- Writes key byte `a`. -/
def Memory.write (m : Memory) (a : Nat) (b : Byte) : Memory := sparseWrite Memory.unlisted m a b

/-- The key buffer's canonical form, every byte number below `size`. -/
def Memory.wf (size : Nat) (m : Memory) : Bool := sparseWf Memory.unlisted size 0 m

/-- `KS[slot]` (R11, R46). -/
def Schedule.read (ks : Schedule) (slot : Nat) : Subkey := sparseRead Subkey.zero ks slot

/-- `KS[slot] <- sk`. -/
def Schedule.write (ks : Schedule) (slot : Nat) (sk : Subkey) : Schedule := sparseWrite Subkey.zero ks slot sk

/-- The schedule's canonical form, every listed slot below `slots`. -/
def Schedule.wf (slots : Nat) (ks : Schedule) : Bool := sparseWf Subkey.zero slots 0 ks

/-- `KS[0..rounds] <- new[0..rounds]`: the slots below `rounds` from `new`, the others as they were (R108). -/
def Schedule.replaceBelow (rounds : Nat) (new old : Schedule) : Schedule :=
  new.filter (fun e => decide (e.1 < rounds)) ++ old.filter (fun e => decide (rounds ≤ e.1))

/-! A command's life cycle. -/

/-- Acceptance of the word `v` by an idle core (R73). It clears DONE, which acknowledges the previous completion (R136). -/
def State.accept (v : Word) (s : State) : State :=
  { s with pcmd := v, inflight := true, done := false }

/-- What every completion writes: ERR, DONE = 1, BUSY = 0, INFLIGHT = 0 (R74). -/
def State.complete (e : ErrCode) (s : State) : State :=
  { s with err := e, done := true, inflight := false }

/-- `raise E`: the command ends with the code `E` and no other effect (R11, R132). This is all an error does: no state is
saved, no mode changes and no control is transferred (R135). -/
def State.raise (e : ErrCode) (s : State) : State := s.complete e

/-- A command that succeeds: its effects are in `s`, and it completes with E_OK (R74). -/
def State.succeed (s : State) : State := s.complete .ok

/-! Reset. -/

/-- The end of the initialisation period: BUSY falls, nothing else changes (R147). -/
def State.endInit (s : State) : State := { s with initialising := false }

/-- The reset input takes a level (R146). Asserting it, and its deassertion, give every piece of state its reset value and
abandon a command in flight; the parameters, and the model's own `inputs` and `draws`, stay. A deassertion of an input that is
not asserted is no edge and changes nothing (log 11). -/
def State.setRst (level : Bool) (s : State) : State :=
  if level || s.rst then
    { State.resetOf s.cfg with rst := level, inputs := s.inputs, draws := s.draws }
  else s

end Sys2Proof.Machine
end

