-- ==== Sys2Proof/Machine/Operands.lean ====
section
/-! DEFINITION. The registers as the host reads and writes them (10_state sections 2 to 6), and the bytes the commands and
the driver read from them. -/

namespace Sys2Proof.Machine

/-! Bytes in registers: byte 0 is the most significant (R57). -/

/-- Byte `k` of a register, `v[31-8k : 24-8k]` for k in 0..3 (R35, R36, R45). -/
def byteOf (v : Word) (k : Nat) : Byte := v.extractLsb' (24 - 8 * k) 8

/-- The register whose bytes 0..3 are given: be32 (R123). -/
def wordOf (b0 b1 b2 b3 : Byte) : Word := b0 ++ b1 ++ b2 ++ b3

/-- `KEYBUF[w] <- v`: key bytes 4w to 4w+3 (R45). -/
def writeKeyWord (m : Memory) (w : Nat) (v : Word) : Memory :=
  (((m.write (4 * w) (byteOf v 0)).write (4 * w + 1) (byteOf v 1)).write (4 * w + 2) (byteOf v 2)).write
    (4 * w + 3) (byteOf v 3)

/-- `KEYBUF_BYTE(k)` (R45). -/
def State.keyByte (s : State) (k : Nat) : Byte := s.keybuf.read k

/-- Byte `k` of the input block, k in 0..7 (R35). -/
def State.inputByte (s : State) (k : Nat) : Byte :=
  if k < 4 then byteOf s.din0 k else byteOf s.din1 (k - 4)

/-- Byte `k` of the output block, k in 0..7 (R36). -/
def State.outputByte (s : State) (k : Nat) : Byte :=
  if k < 4 then byteOf s.dout0 k else byteOf s.dout1 (k - 4)

/-! Reading a register. -/

/-- The constant of the ID register (R33). -/
def idWord : Word := 0x49434501

/-- A register's current value, its other bits 0 (R17, R18). CMD, KEYBUF and reserved offsets read 0 (R21, R43, R44). -/
def State.regValue (s : State) : Reg → Word
  | .cmd => 0
  | .status => s.statusWord
  | .ctrl => s.ctrlWord
  | .size => s.size
  | .rounds => s.rounds
  | .keylen => s.keylen
  | .nmax => BitVec.ofNat 32 s.cfg.nMax
  | .id => idWord
  | .din0 => s.din0
  | .din1 => s.din1
  | .dout0 => s.dout0
  | .dout1 => s.dout1
  | .gfA => s.gfA.setWidth 32
  | .gfB => s.gfB.setWidth 32
  | .gfM => s.gfM.setWidth 32
  | .gfRes => s.gfRes.setWidth 32
  | .permIn => s.permIn
  | .permOut => s.permOut
  | .sboxOut => s.sboxOut
  | .fIn => s.fIn
  | .sk0 => s.sk0.setWidth 32
  | .sk1 => s.sk1.setWidth 32
  | .sk2 => s.sk2.setWidth 32
  | .fOut => s.fOut
  | .reserved => 0
  | .keybuf _ => 0

/-- The registers whose reads are unspecified while BUSY = 1 (R150). -/
def Reg.unspecifiedWhileBusy : Reg → Bool
  | .dout0 | .dout1 | .gfRes | .permOut | .sboxOut | .fOut | .size | .rounds | .keylen => true
  | .cmd | .status | .ctrl | .nmax | .id | .din0 | .din1 | .gfA | .gfB | .gfM | .permIn | .fIn | .sk0 | .sk1 | .sk2
  | .reserved | .keybuf _ => false

/-- The meaningful bits of a register whose read can be unspecified (R17, R150): GF_RES has 8, the others 32. -/
def Reg.meaningful : Reg → Word
  | .gfRes => 0x000000FF
  | _ => 0xFFFFFFFF

/-- A host read of a register: the value and the state after it. No read has a side effect (R56); an unspecified one (R150)
takes a free value, a fresh one each time (log 5). -/
def State.readReg (r : Reg) (s : State) : Word × State :=
  if s.busy && r.unspecifiedWhileBusy then
    (Config.freeRead s.draws &&& r.meaningful, { s with draws := s.draws + 1 })
  else (s.regValue r, s)

/-! Writing a register. -/

/-- The registers a write to which is ignored, with OVR set, while BUSY = 1 (R149). -/
def Reg.blockedWhileBusy : Reg → Bool
  | .cmd | .din0 | .din1 | .gfA | .gfB | .gfM | .permIn | .fIn | .sk0 | .sk1 | .sk2 | .keybuf _ => true
  | .status | .ctrl | .size | .rounds | .keylen | .nmax | .id | .dout0 | .dout1 | .gfRes | .permOut | .sboxOut | .fOut
  | .reserved => false

/-- A write that is performed: an operand register keeps its meaningful bits (R18), CMD accepts a command (R73), STATUS and
CTRL take their fields, a read-only register or reserved offset ignores it (R17, R43). -/
def State.performWrite (r : Reg) (v : Word) (s : State) : State :=
  match r with
  | .cmd => s.accept v
  | .status => s.writeStatus v
  | .ctrl => s.writeCtrl v
  | .din0 => { s with din0 := v }
  | .din1 => { s with din1 := v }
  | .gfA => { s with gfA := v.setWidth 8 }
  | .gfB => { s with gfB := v.setWidth 8 }
  | .gfM => { s with gfM := v.setWidth 9 }
  | .permIn => { s with permIn := v }
  | .fIn => { s with fIn := v }
  | .sk0 => { s with sk0 := v.setWidth 20 }
  | .sk1 => { s with sk1 := v.setWidth 20 }
  | .sk2 => { s with sk2 := v.setWidth 20 }
  | .keybuf w => { s with keybuf := writeKeyWord s.keybuf w v }
  | .size | .rounds | .keylen | .nmax | .id | .dout0 | .dout1 | .gfRes | .permOut | .sboxOut | .fOut | .reserved => s

/-- A host write to a register: ignored with OVR set where BUSY = 1 blocks it (R149), performed otherwise. -/
def State.writeReg (r : Reg) (v : Word) (s : State) : State :=
  if s.busy && r.blockedWhileBusy then s.setOvr else s.performWrite r v

end Sys2Proof.Machine
end

