-- ==== Sys2Proof/Machine/Bus.lean ====
section
/-! DEFINITION. The slave port: address decode (10_state R17, 20_memory R52) and the service of one host access (R53, R54). -/

namespace Sys2Proof.Machine

/-- The register's offset from ICE_BASE (R17). A reserved offset stands for the first of them. -/
def Reg.offset : Reg → Nat
  | .cmd => 0x000
  | .status => 0x004
  | .ctrl => 0x008
  | .size => 0x00C
  | .rounds => 0x010
  | .keylen => 0x014
  | .nmax => 0x018
  | .id => 0x01C
  | .din0 => 0x020
  | .din1 => 0x024
  | .dout0 => 0x028
  | .dout1 => 0x02C
  | .gfA => 0x030
  | .gfB => 0x034
  | .gfM => 0x038
  | .gfRes => 0x03C
  | .permIn => 0x040
  | .permOut => 0x044
  | .sboxOut => 0x048
  | .fIn => 0x04C
  | .sk0 => 0x050
  | .sk1 => 0x054
  | .sk2 => 0x058
  | .fOut => 0x05C
  | .reserved => 0x060
  | .keybuf w => 0x100 + 4 * w

/-- The registers below 0x060, in the order of their offsets (R17). -/
def lowRegs : List Reg :=
  [.cmd, .status, .ctrl, .size, .rounds, .keylen, .nmax, .id] ++
  [.din0, .din1, .dout0, .dout1, .gfA, .gfB, .gfM, .gfRes] ++
  [.permIn, .permOut, .sboxOut, .fIn, .sk0, .sk1, .sk2, .fOut]

/-- The register at an offset that is a multiple of 4 (R17): the low registers, the gap, the words of KEYBUF, and reserved
offsets above the last of them (R43). -/
def regAt (p : Params) (off : Nat) : Reg :=
  if off < 0x060 then lowRegs.getD (off / 4) .reserved
  else if 0x100 ≤ off ∧ off < 0x100 + p.keybufBytes then .keybuf ((off - 0x100) / 4)
  else .reserved

/-- The bus address lies in the aperture (R52). -/
def inAperture (p : Params) (addr : Nat) : Bool := decide (p.base ≤ addr ∧ addr < p.base + p.apertureBytes)

/-- The only access the core serves: 32 bits at a multiple of 4 (R53). -/
def Access.served (a : Access) : Bool := decide (a.bytes = 4 ∧ a.addr % 4 = 0)

/-- An aligned 32-bit access at an offset (R53, R55): it moves the whole register. -/
def State.transfer (off : Nat) (k : AccessKind) (s : State) : State :=
  match k with
  | .read =>
    let (v, t) := s.readReg (regAt s.cfg off)
    { t with reply := .data v }
  | .write v => { s.writeReg (regAt s.cfg off) v with reply := .written }

/-- One host access at the slave port. While `rst` is asserted it has no step (R146, U7); outside the aperture it does not
reach the core (R52); any but an aligned 32-bit one gets the error response and changes nothing (R54). -/
def serveAccess (a : Access) (s : State) : Host.Outcome State Fault Refusal :=
  if s.rst then .fault .accessDuringReset
  else if !inAperture s.cfg a.addr then .fault .outsideAperture
  else if !a.served then .next { s with reply := .busError }
  else .next (s.transfer (a.addr - s.cfg.base) a.kind)

end Sys2Proof.Machine
end

