-- ==== Sys2Proof/Machine/Galois.lean ====
section
/-! DEFINITION. GF(2^8) arithmetic with a modulus parameter, and GFMUL and GFEXP7 (41_gf_arith). -/

namespace Sys2Proof.Machine

/-- A modulus is valid when bit 8 is set (R85). -/
def validModulus (m : Modulus) : Bool := m.getLsbD 8

/-- The working value after one shift, folded back below 256 where it reached it (R86). -/
def gfFold (m x : Modulus) : Modulus := if 256 ≤ x <<< 1 then x <<< 1 ^^^ m else x <<< 1

/-- The loop of R86, at most `fuel` times: it ends when no bit of `y` is left. -/
def gfMulLoop (m : Modulus) : Nat → Byte → Modulus → Byte → Byte
  | 0, res, _, _ => res
  | fuel + 1, res, x, y =>
    if y = 0 then res
    else gfMulLoop m fuel (if y.getLsbD 0 then res ^^^ x.setWidth 8 else res) (gfFold m x) (y >>> 1)

/-- `multiply(a, b, m)` (R86): eight bits of `b`, so eight rounds are all there can be. -/
def gfMul (a b : Byte) (m : Modulus) : Byte := gfMulLoop m 8 0 (a.setWidth 9) b

/-- `exp7(base, m)` (R88). -/
def gfExp7 (base : Byte) (m : Modulus) : Byte :=
  if base = 0 then 0
  else
    let x2 := gfMul base base m
    let x3 := gfMul base x2 m
    let x6 := gfMul x3 x3 m
    gfMul base x6 m

/-- GFMUL (R89). -/
def execGfmul (s : State) : Host.Outcome State Fault Refusal :=
  .next (if validModulus s.gfM then { s with gfRes := gfMul s.gfA s.gfB s.gfM }.succeed else s.raise .operand)

/-- GFEXP7 (R90). -/
def execGfexp7 (s : State) : Host.Outcome State Fault Refusal :=
  .next (if validModulus s.gfM then { s with gfRes := gfExp7 s.gfA s.gfM }.succeed else s.raise .operand)

end Sys2Proof.Machine
end

