-- ==== Sys2Proof/Machine/Permutation.lean ====
section
/-! DEFINITION. The bit permutation network and PERM32 (42_permutation). -/

namespace Sys2Proof.Machine

/-- PBOX (R91; log 1): the spec's own columns, eight entries a line. -/
def pboxTable : List Word :=
  [0x00000001, 0x00000080, 0x00000400, 0x00002000, 0x00080000, 0x00200000, 0x01000000, 0x40000000] ++
  [0x00000008, 0x00000020, 0x00000100, 0x00004000, 0x00010000, 0x00800000, 0x04000000, 0x20000000] ++
  [0x00000004, 0x00000010, 0x00000200, 0x00008000, 0x00020000, 0x00400000, 0x08000000, 0x10000000] ++
  [0x00000002, 0x00000040, 0x00000800, 0x00001000, 0x00040000, 0x00100000, 0x02000000, 0x80000000]

/-- PBOX[i], i in 0..31. -/
def pbox (i : Nat) : Word := pboxTable.getD i 0

/-- `permute32(x)` (R92): for each set bit i, from bit 0 upward, OR the i-th mask into the result. -/
def permute32 (x : Word) : Word :=
  (List.range 32).foldl (fun res i => if x.getLsbD i then res ||| pbox i else res) 0

/-- PERM32 (R94). -/
def execPerm32 (s : State) : Host.Outcome State Fault Refusal :=
  .next { s with permOut := permute32 s.permIn }.succeed

end Sys2Proof.Machine
end

