-- ==== Sys2Proof/Machine/SBox.lean ====
section
/-! DEFINITION. The S-box and SBOXRD (43_sbox). The table is constant (R47, R98), so it is a function here (log 13). -/

namespace Sys2Proof.Machine

/-- SXOR, one line per column c (R95; log 1). -/
def sxorTable : List (List Byte) :=
  [[0x83, 0x85, 0x9B, 0xCD],
   [0xCC, 0xA7, 0xAD, 0x41],
   [0x4B, 0x2E, 0xD4, 0x33],
   [0xEA, 0xCB, 0x2E, 0x04]]

/-- SMOD, one line per column c (R95; log 1). -/
def smodTable : List (List Modulus) :=
  [[333, 313, 505, 369],
   [379, 375, 319, 391],
   [361, 445, 451, 397],
   [397, 425, 395, 505]]

/-- SXOR[c][row]. -/
def sxor (c row : BitVec 2) : Byte := (sxorTable.getD c.toNat []).getD row.toNat 0

/-- SMOD[c][row]. -/
def smod (c row : BitVec 2) : Modulus := (smodTable.getD c.toNat []).getD row.toNat 0

/-- `col = i[8:1]` (R96; 90_conflicts C2). -/
def sboxCol (i : BitVec 10) : Byte := i.extractLsb' 1 8

/-- `row = i[9] ‖ i[0]` (R96; 90_conflicts C3). -/
def sboxRow (i : BitVec 10) : BitVec 2 := i.extractLsb' 9 1 ++ i.extractLsb' 0 1

/-- SBOX[i][c] (R97). -/
def sbox (i : BitVec 10) (c : BitVec 2) : Word :=
  permute32
    ((gfExp7 (sboxCol i ^^^ sxor c (sboxRow i)) (smod c (sboxRow i))).setWidth 32 <<< (24 - 8 * c.toNat))

/-- SBOXRD `c, index` (R100). -/
def execSboxrd (c : BitVec 2) (index : BitVec 10) (s : State) : Host.Outcome State Fault Refusal :=
  .next { s with sboxOut := sbox index c }.succeed

end Sys2Proof.Machine
end

