-- ==== Sys2Proof/Machine/RoundFunction.lean ====
section
/-! DEFINITION. The round function F and FTEST (45_round_function). -/

namespace Sys2Proof.Machine

/-- `p` on 50 bits, so that the shifts of R109 lose none of it. -/
def widen (p : Word) : BitVec 50 := p.setWidth 50

/-- `tl` of the expansion (R109; log 1). -/
def expandLeft (p : Word) : Half20 :=
  ((widen p >>> 16 &&& 0x3FF) ||| ((widen p >>> 14 ||| widen p <<< 18) &&& 0xFFC00)).setWidth 20

/-- `tr` of the expansion (R109; log 1). -/
def expandRight (p : Word) : Half20 :=
  ((widen p &&& 0x3FF) ||| (widen p <<< 2 &&& 0xFFC00)).setWidth 20

/-- The four lookups: `al[19:10]`, `al[9:0]`, `ar[19:10]`, `ar[9:0]` in columns 0 to 3 (R110). -/
def lookup4 (al ar : Half20) : Word :=
  sbox (al.extractLsb' 10 10) 0 ||| sbox (al.extractLsb' 0 10) 1 ||| sbox (ar.extractLsb' 10 10) 2
    ||| sbox (ar.extractLsb' 0 10) 3

/-- `F(p, sk)` (R110). -/
def roundF (p : Word) (sk : Subkey) : Word :=
  let tl := expandLeft p
  let tr := expandRight p
  let al := sk.w2 &&& (tl ^^^ tr)
  let ar := al ^^^ tr
  let al := al ^^^ tl
  lookup4 (al ^^^ sk.w0) (ar ^^^ sk.w1)

/-- FTEST (R113). KS is not read. -/
def execFtest (s : State) : Host.Outcome State Fault Refusal :=
  .next { s with fOut := roundF s.fIn ⟨s.sk0, s.sk1, s.sk2⟩ }.succeed

end Sys2Proof.Machine
end

