-- ==== Sys2Proof/Machine/BlockCipher.lean ====
section
/-! DEFINITION. One block encrypted or decrypted, and ENCRYPT and DECRYPT (46_block_cipher). -/

namespace Sys2Proof.Machine

/-- `n` turns of Encrypt's loop from the loop variable `i` upward (R114). -/
def encryptLoop (ks : Schedule) : Nat → Nat → Word → Word → Word × Word
  | 0, _, l, r => (l, r)
  | n + 1, i, l, r =>
    let l := l ^^^ roundF r (ks.read i)
    let r := r ^^^ roundF l (ks.read (i + 1))
    encryptLoop ks n (i + 2) l r

/-- `n` turns of Decrypt's loop from the loop variable `i` downward (R115). -/
def decryptLoop (ks : Schedule) : Nat → Nat → Word → Word → Word × Word
  | 0, _, l, r => (l, r)
  | n + 1, i, l, r =>
    let l := l ^^^ roundF r (ks.read (i - 1))
    let r := r ^^^ roundF l (ks.read (i - 2))
    decryptLoop ks n (i - 2) l r

/-- `Encrypt(l0, r0)`: i = 0, 2, .., ROUNDS-2, and the halves swapped at the end (R114; 90_conflicts C11). -/
def encryptBlock (ks : Schedule) (rounds : Nat) (l0 r0 : Word) : Word × Word :=
  let (l, r) := encryptLoop ks (rounds / 2) 0 l0 r0
  (r, l)

/-- `Decrypt(l0, r0)`: i = ROUNDS, ROUNDS-2, .., 2, the same serialisation (R115). -/
def decryptBlock (ks : Schedule) (rounds : Nat) (l0 r0 : Word) : Word × Word :=
  let (l, r) := decryptLoop ks (rounds / 2) rounds l0 r0
  (r, l)

/-- The claimed block length is the one block the core processes (R119, R120; 90_conflicts C10). -/
def isBlockLength (len : BitVec 16) : Bool := len == 8

/-- `DOUT0 <- a; DOUT1 <- b`. -/
def State.setOutput (o : Word × Word) (s : State) : State := { s with dout0 := o.1, dout1 := o.2 }

/-- ENCRYPT `len` (R119). An unkeyed core encrypts with the all-zero schedule (R118). -/
def execEncrypt (len : BitVec 16) (s : State) : Host.Outcome State Fault Refusal :=
  .next
    (if isBlockLength len then (s.setOutput (encryptBlock s.ks s.rounds.toNat s.din0 s.din1)).succeed
     else s.raise .blocklen)

/-- DECRYPT `len` (R120). -/
def execDecrypt (len : BitVec 16) (s : State) : Host.Outcome State Fault Refusal :=
  .next
    (if isBlockLength len then (s.setOutput (decryptBlock s.ks s.rounds.toNat s.din0 s.din1)).succeed
     else s.raise .blocklen)

end Sys2Proof.Machine
end

