-- ==== Sys2Proof/Machine/Control.lean ====
section
/-! DEFINITION. NOP and CONFIG (40_control). -/

namespace Sys2Proof.Machine

/-- SIZE, ROUNDS and KEYLEN of a strength level (R81). -/
structure LevelConfig where
  size   : Nat
  rounds : Nat
  keylen : Nat
  deriving DecidableEq, Repr

/-- R81: level 0 is thin mode, a level n ≥ 1 has 16·n rounds and an 8·n-byte key. -/
def levelConfig (n : Nat) : LevelConfig :=
  if n = 0 then { size := 1, rounds := 8, keylen := 16 }
  else { size := n, rounds := 16 * n, keylen := 8 * n }

/-- A new instance (R83): the level's configuration, a zeroed schedule, no key. -/
def State.configure (c : LevelConfig) (s : State) : State :=
  { s with
    size := BitVec.ofNat 32 c.size
    rounds := BitVec.ofNat 32 c.rounds
    keylen := BitVec.ofNat 32 c.keylen
    ks := []
    keyed := false }

/-- NOP: does nothing but complete (R82). -/
def execNop (s : State) : Host.Outcome State Fault Refusal := .next s.succeed

/-- CONFIG `n` (R83). -/
def execConfig (n : BitVec 16) (s : State) : Host.Outcome State Fault Refusal :=
  .next (if s.cfg.nMax < n.toNat then s.raise .level else (s.configure (levelConfig n.toNat)).succeed)

end Sys2Proof.Machine
end

