-- ==== Sys2Proof/Machine/KeySchedule.lean ====
section
/-! DEFINITION. The key schedule builder and SETKEY (44_key_schedule). -/

namespace Sys2Proof.Machine

/-- KEYROT (R101; log 1): entries 0..7 serve offset 0, entries 8..15 offset 8. -/
def keyrotTable : List Nat := [0, 1, 2, 3, 2, 1, 3, 0] ++ [1, 3, 2, 0, 3, 1, 0, 2]

/-- KEYROT[i], i in 0..15. -/
def keyrot (i : Nat) : Nat := keyrotTable.getD i 0

/-- The four 16-bit registers kb[0..3] (R102). -/
structure KeyRegs where
  r0 : BitVec 16
  r1 : BitVec 16
  r2 : BitVec 16
  r3 : BitVec 16
  deriving DecidableEq, Repr

/-- `kb[w]`, w in 0..3. -/
def KeyRegs.get (kb : KeyRegs) (w : Nat) : BitVec 16 :=
  match w with
  | 0 => kb.r0
  | 1 => kb.r1
  | 2 => kb.r2
  | _ => kb.r3

/-- `kb[w] <- v`, w in 0..3. -/
def KeyRegs.set (kb : KeyRegs) (w : Nat) (v : BitVec 16) : KeyRegs :=
  match w with
  | 0 => { kb with r0 := v }
  | 1 => { kb with r1 := v }
  | 2 => { kb with r2 := v }
  | _ => { kb with r3 := v }

/-- `pack(K, base)` (R102): `kb[3-i]` holds bytes `base+2i` and `base+2i+1`, the first the more significant. -/
def pack (key : Nat → Byte) (base : Nat) : KeyRegs where
  r3 := key (base + 0) ++ key (base + 1)
  r2 := key (base + 2) ++ key (base + 3)
  r1 := key (base + 4) ++ key (base + 5)
  r0 := key (base + 6) ++ key (base + 7)

/-- The register after one extraction: shifted down, the complement of the bit taken at bit 15 (R103). -/
def rotateInverted (r : BitVec 16) : BitVec 16 :=
  r >>> 1 ||| (BitVec.ofBool (r.getLsbD 0) ^^^ 1#1).setWidth 16 <<< 15

/-- `extract(kb, w)` (R103): the low bit of `kb[w]`, and the registers after it. -/
def extract (kb : KeyRegs) (w : Nat) : Bool × KeyRegs :=
  ((kb.get w).getLsbD 0, kb.set w (rotateInverted (kb.get w)))

/-- A bit shifted into a 20-bit word from the low end (R104). -/
def shiftIn (w : Half20) (bit : Bool) : Half20 := w <<< 1 ||| (BitVec.ofBool bit).setWidth 20

/-- `sk[m] <- (sk[m] << 1) | bit`, m in 0..2 (R104). -/
def Subkey.shiftIn (sk : Subkey) (m : Nat) (bit : Bool) : Subkey :=
  match m with
  | 0 => { sk with w0 := Machine.shiftIn sk.w0 bit }
  | 1 => { sk with w1 := Machine.shiftIn sk.w1 bit }
  | _ => { sk with w2 := Machine.shiftIn sk.w2 bit }

/-- One bit from the register `(kr + k) mod 4`, into `sk[j mod 3]` (R104). -/
def takeBit (kr j : Nat) (st : Subkey × KeyRegs) (k : Nat) : Subkey × KeyRegs :=
  let (bit, kb) := extract st.2 ((kr + k) % 4)
  (st.1.shiftIn (j % 3) bit, kb)

/-- The subkey of one round: 15 times a bit from each of the four registers (R104). -/
def buildSubkey (kr : Nat) (kb : KeyRegs) : Subkey × KeyRegs :=
  (List.range 15).foldl (fun st j => (List.range 4).foldl (takeBit kr j) st) (Subkey.zero, kb)

/-- `pass(kb, n, l)` on the schedule being built (R104): slots `n .. n+7`, and the registers it leaves. -/
def schedulePass (kb : KeyRegs) (n l : Nat) (ks : Schedule) : KeyRegs × Schedule :=
  (List.range 8).foldl
    (fun st i =>
      let (sk, kb) := buildSubkey (keyrot (i + l)) st.1
      (kb, st.2.write (n + i) sk))
    (kb, ks)

/-- The thin key set: one pass at offset 0 over key bytes 0..7 (R105; 90_conflicts C4). -/
def setKeyThin (key : Nat → Byte) (ks : Schedule) : Schedule := (schedulePass (pack key 0) 0 0 ks).2

/-- Key block `i` of the N-level key set: its own 8 bytes, a pass at offset 0, then one at offset 8 on the registers the first
left (R106; 90_conflicts C5). -/
def setKeyBlock (key : Nat → Byte) (rounds i : Nat) (ks : Schedule) : Schedule :=
  let (kb, ks) := schedulePass (pack key (8 * i)) (8 * i) 0 ks
  (schedulePass kb (rounds - 8 - 8 * i) 8 ks).2

/-- The N-level key set: `size` key blocks in order (R106). -/
def setKeyLevel (key : Nat → Byte) (size rounds : Nat) (ks : Schedule) : Schedule :=
  (List.range size).foldl (fun ks i => setKeyBlock key rounds i ks) ks

/-- `KS'` of R108: the schedule the key in KEYBUF gives. -/
def State.buildSchedule (s : State) : Schedule :=
  if s.rounds = 8 then setKeyThin s.keyByte s.ks
  else setKeyLevel s.keyByte s.size.toNat s.rounds.toNat s.ks

/-- SETKEY `len` (R108). The claimed length is zero-extended to compare it (R68). -/
def execSetkey (len : BitVec 16) (s : State) : Host.Outcome State Fault Refusal :=
  .next
    (if len.setWidth 32 ≠ s.keylen then s.raise .keylen
     else { s with ks := Schedule.replaceBelow s.rounds.toNat s.buildSchedule s.ks, keyed := true }.succeed)

end Sys2Proof.Machine
end

