-- ==== Sys2Proof/Machine/Dispatch.lean ====
section
/-! DEFINITION. `exec`: the completion of a decoded command (30_encoding R74), one arm per command. -/

namespace Sys2Proof.Machine

def exec (i : Instr) (s : State) : Host.Outcome State Fault Refusal :=
  match i with
  | .nop => Sys2Proof.Machine.execNop s
  | .config n => Sys2Proof.Machine.execConfig n s
  | .setkey len => Sys2Proof.Machine.execSetkey len s
  | .encrypt len => Sys2Proof.Machine.execEncrypt len s
  | .decrypt len => Sys2Proof.Machine.execDecrypt len s
  | .gfmul => Sys2Proof.Machine.execGfmul s
  | .gfexp7 => Sys2Proof.Machine.execGfexp7 s
  | .perm32 => Sys2Proof.Machine.execPerm32 s
  | .sboxrd c index => Sys2Proof.Machine.execSboxrd c index s
  | .ftest => Sys2Proof.Machine.execFtest s

end Sys2Proof.Machine
end

