-- ==== Sys2Proof/Machine/Sequencer.lean ====
section
/-! DEFINITION. The core sequencer (10_state R15): it ends the initialisation period and completes the command in flight. -/

namespace Sys2Proof.Machine

/-- Completion of the command in flight (R74): decode PCMD, then either E_ILLEGAL with no effect (R70, R132) or the
command's own execution. -/
def completePending (s : State) : Host.Outcome State Fault Refusal :=
  match decode s.pcmd with
  | .error _ => .next (s.raise .illegal)
  | .ok i => exec i s

/-- The move the sequencer is due. In reset it makes none (R146); else it ends the initialisation (R147), else it completes
the command in flight (R75), else the core is idle and waits for the next command (R84). -/
def coreMove (s : State) : Host.Outcome State Fault Refusal :=
  if s.rst then .next s
  else if s.initialising then .next s.endInit
  else if s.inflight then completePending s
  else .next s

/-- One input is handled (R59): an access completely, a tick by a move of the sequencer, a level of `rst`. -/
def handle (x : Input) (s : State) : Host.Outcome State Fault Refusal :=
  match x with
  | .access a => serveAccess a s
  | .tick => coreMove s
  | .rst level => .next (s.setRst level)

/-- The word `w` is in flight in a core that is out of reset and initialised, and the sequencer moves next: what the acceptance
of a host write of `w` to CMD leaves (R73; log 12). -/
def State.pendWord (w : Word) (s : State) : State :=
  { s.accept w with rst := false, initialising := false, inputs := .tick :: s.inputs }

end Sys2Proof.Machine
end

