-- ==== Sys2Proof/Machine/Step.lean ====
section
/-! DEFINITION. One step of the machine: the next input is handled; when none is left, the sequencer moves, so that an accepted
command always completes (30_encoding R75; log 4). -/

namespace Sys2Proof.Machine

def step (s : State) : Host.Outcome State Fault Refusal :=
  match s.inputs with
  | [] => coreMove s
  | x :: rest => handle x { s with inputs := rest }

/-- The core fetches nothing (R20): a command reaches it as the word in flight, so that is where the word goes. -/
def State.withFetchWord (s : State) (nbits w : Nat) : State := s.pendWord (tableWord nbits w)

end Sys2Proof.Machine
end

