-- ==== Sys2Proof/Machine/Driver.lean ====
section
/-! DEFINITION. The host driver's contract (47_host_bulk_codec): host programs (30_encoding R77, R78), the library operations and
the bulk codec, as functions over the core's register accesses. They bind the driver, not the core (R4). A driver keeps the
host's duties, so its accesses are made out of reset and every one is served (Laws/Bus: `serveAccess_reg`). -/

namespace Sys2Proof.Machine

/-! Register accesses and host programs. -/

/-- `wr REG, v`: MemWrite(ICE_BASE + offset(REG), 4, v) (R77). -/
def State.wr (r : Reg) (v : Word) (s : State) : State := s.transfer r.offset (.write v)

/-- The value a port's response carries; only a read's response carries one. -/
def Reply.value : Reply → Word
  | .data v => v
  | .none | .written | .busError => 0

/-- `rd REG`: MemRead(ICE_BASE + offset(REG), 4) (R77), its value and the state after it. -/
def State.rd (r : Reg) (s : State) : Word × State :=
  let t := s.transfer r.offset .read
  (t.reply.value, t)

/-- The move the sequencer is due, as the waiting host sees it happen. -/
def State.settle (s : State) : State :=
  match coreMove s with
  | .next t => t
  | .fault _ | .refused _ => s

/-- `wait`: reads of STATUS until bit 0 is 0 (R78). The reads change nothing (R56), and the sequencer's move comes (R74), so the
loop ends with one read after that move (log 15). -/
def State.wait (s : State) : State := ((if s.busy then s.settle else s).rd .status).2

/-- A statement of a host program (R76 to R78), and the moment at which a command left in flight completes. -/
inductive HostOp where
  | wr (r : Reg) (v : Word)
  | rd (r : Reg)
  /-- A command: a write of its word to CMD (R76). -/
  | cmd (c : AsmCmd)
  | wait
  /-- `ice.clrstat` (R78). -/
  | clrstat
  /-- Time passes between two statements and the sequencer makes the move it is due. When a command completes is open (R74, R75,
  R134): a host program's runs are those of its statements with `elapse` put in wherever a completion may come. DESIGN CHOICE
  (log 21): the completion comes just there and in `wait`. -/
  | elapse
  /-- `ice.run X`: X, then `wait` (R78). -/
  | run (c : AsmCmd)
  deriving DecidableEq, Repr

/-- One statement: the values it read and the state after it; none where the assembler refuses it (R76). A command without `wait`
stays in flight until an `elapse` or a `wait` (log 21). -/
def HostOp.exec (o : HostOp) (s : State) : Option (List Word × State) :=
  match o with
  | .wr r v => some ([], s.wr r v)
  | .rd r => some ([(s.rd r).1], (s.rd r).2)
  | .cmd c => (assemble c).map fun w => ([], s.wr .cmd w)
  | .wait => some ([], s.wait)
  | .clrstat => some ([], s.wr .status 0x00000006)
  | .elapse => some ([], s.settle)
  | .run c => (assemble c).map fun w => ([], (s.wr .cmd w).wait)

/-- A host program: the values its reads returned, in order, and the state after it. A list without `elapse` is the one run in which
nothing completes outside `wait`; the program's other runs are lists with it (log 21). -/
def runHost : List HostOp → State → Option (List Word × State)
  | [], s => some ([], s)
  | o :: rest, s =>
    match o.exec s with
    | none => none
    | some (out, t) => (runHost rest t).map fun (more, u) => (out ++ more, u)

/-! The library operations. -/

/-- What a library operation reports to its caller (R121 to R125). -/
inductive Report where
  | done
  | unsupportedLevel
  | invalidKeyLength
  | invalidBlockLength
  /-- E_ILLEGAL or E_OPERAND, which no library operation causes (R125), or a reserved code (R131). -/
  | driverFault (code : BitVec 4)
  /-- DESIGN CHOICE (log 15): the length is right but no 16-bit ARG can carry it, so no SETKEY word exists. -/
  | notEncodable
  deriving DecidableEq, Repr

/-- The report for a STATUS word: the mapping of R125. -/
def reportOf (status : Word) : Report :=
  match (status.extractLsb' 4 4).toNat with
  | 0 => .done
  | 2 => .invalidKeyLength
  | 3 => .invalidBlockLength
  | 4 => .unsupportedLevel
  | _ => .driverFault (status.extractLsb' 4 4)

/-- The source's UnkeyedUse, which an implementation may report: STATUS.KEYED = 0 at an ENCRYPT or DECRYPT (R125). -/
def unkeyedUse (status : Word) : Bool := !status.getLsbD 3

/-- The command, then the report from STATUS (R125); none where it cannot be encoded. -/
def runReport (c : AsmCmd) (s : State) : Option (Report × State) :=
  (assemble c).map fun w =>
    let t := (s.wr .cmd w).wait
    (reportOf (t.rd .status).1, (t.rd .status).2)

/-- `new(strength_level)` (R121): a level that cannot be encoded is reported without writing CMD. -/
def libNew (level : Nat) (s : State) : Report × State := (runReport (.config level) s).getD (.unsupportedLevel, s)

/-- `be32` of the four bytes of `b` from `k` on (R123). -/
def be32 (b : List Byte) (k : Nat) : Word := wordOf (b.getD k 0) (b.getD (k + 1) 0) (b.getD (k + 2) 0) (b.getD (k + 3) 0)

/-- The KEYBUF writes of a key: one word for each four bytes (R122). -/
def writeKey (key : List Byte) (s : State) : State :=
  (List.range (key.length / 4)).foldl (fun s w => s.wr (.keybuf w) (be32 key (4 * w))) s

/-- `set_key(instance, key_bytes)` (R122): the driver's own length check, then KEYBUF, then SETKEY. -/
def libSetKey (key : List Byte) (s : State) : Report × State :=
  let (required, s) := s.rd .keylen
  if key.length ≠ required.toNat then (.invalidKeyLength, s)
  else
    let s := writeKey key s
    (runReport (.setkey key.length) s).getD (.notEncodable, s)

/-- The four bytes of a register, most significant first (R123). -/
def wordBytes (v : Word) : List Byte := [byteOf v 0, byteOf v 1, byteOf v 2, byteOf v 3]

/-- Which of the two block operations. -/
inductive Direction where
  | encrypt
  | decrypt
  deriving DecidableEq, Repr

/-- The command of a block operation with a claimed length (R123). -/
def Direction.command (d : Direction) (len : Nat) : AsmCmd :=
  match d with
  | .encrypt => .encrypt len
  | .decrypt => .decrypt len

/-- `encrypt_block` and `decrypt_block` (R123). On a wrong length the driver either reports at once (`early`) or asks the core;
R123 allows both. -/
def libBlock (d : Direction) (early : Bool) (b : List Byte) (s : State) : Except Report (List Byte) × State :=
  if b.length = 8 then
    let s := (s.wr .din0 (be32 b 0)).wr .din1 (be32 b 4)
    match runReport (d.command 8) s with
    | some (.done, s) =>
      let (a, s) := s.rd .dout0
      let (c, s) := s.rd .dout1
      (.ok (wordBytes a ++ wordBytes c), s)
    | some (e, s) => (.error e, s)
    | none => (.error .notEncodable, s)
  else if early then (.error .invalidBlockLength, s)
  else
    match runReport (d.command (min b.length 0xFFFF)) s with
    | some (e, s) => (.error e, s)
    | none => (.error .notEncodable, s)

/-- `rounds()` (R124). -/
def libRounds (s : State) : Word × State := s.rd .rounds

/-- `key_size_level()` (R124). -/
def libKeySizeLevel (s : State) : Word × State := s.rd .size

/-! The bulk codec. -/

/-- `pad = 8 - (n mod 8)`, 1 to 8 (R127). -/
def padLength (n : Nat) : Nat := 8 - n % 8

/-- The input followed by `pad` zero bytes (R127). -/
def padded (bytes : List Byte) : List Byte := bytes ++ List.replicate (padLength bytes.length) 0

/-- The 8-byte chunks of a buffer, in order (R128). -/
def chunks8 (buf : List Byte) : List (List Byte) :=
  (List.range (buf.length / 8)).map fun k => (buf.drop (8 * k)).take 8

/-- A block operation on each chunk in order, the outputs concatenated (R128). -/
def libChunks (d : Direction) : List (List Byte) → State → Except Report (List Byte) × State
  | [], s => (.ok [], s)
  | b :: rest, s =>
    match libBlock d true b s with
    | (.error e, s) => (.error e, s)
    | (.ok out, s) =>
      match libChunks d rest s with
      | (.error e, s) => (.error e, s)
      | (.ok more, s) => (.ok (out ++ more), s)

/-- `encrypt_buffer` and `decrypt_buffer`: both pad (R128). -/
def libBuffer (d : Direction) (bytes : List Byte) (s : State) : Except Report (List Byte) × State :=
  libChunks d (chunks8 (padded bytes)) s

end Sys2Proof.Machine
end

