-- ==== Sys2Proof/Safety.lean ====
section
/-! DEFINITION. What claims are stated in: the invariant of the core's state, the host's duties, a safe run, and what a host can
see. -/

namespace Sys2Proof.Machine

/-- The core is in thin mode (R81). -/
def State.Thin (s : State) : Prop := s.size = 1 ∧ s.rounds = 8 ∧ s.keylen = 16

/-- The core is at level n ≥ 1, the value of SIZE (R81). -/
def State.NLevel (s : State) : Prop :=
  1 ≤ s.size.toNat ∧ s.size.toNat ≤ s.cfg.nMax ∧ s.rounds.toNat = 16 * s.size.toNat ∧ s.keylen.toNat = 8 * s.size.toNat

/-- What holds in every state a run from reset reaches. -/
structure State.Inv (s : State) : Prop where
  /-- KEYBUF is in canonical form, within KEYBUF_BYTES (R44). -/
  keybuf_wf : s.keybuf.wf s.cfg.keybufBytes = true
  /-- KS is in canonical form, and only slots below ROUNDS are not zero (R46, R108). -/
  ks_wf : s.ks.wf s.rounds.toNat = true
  /-- SIZE, ROUNDS and KEYLEN are those of a level the core accepts (R34). -/
  level : s.Thin ∨ s.NLevel
  /-- An unkeyed core's schedule is all zero (R118). -/
  unkeyed : s.keyed = false → s.ks = []
  /-- DONE is 0 from a command's acceptance to its completion (R24, R73). -/
  inflight : s.inflight = true → s.done = false
  /-- No command is in flight during initialisation, and none has completed (R147). -/
  init : s.initialising = true → s.inflight = false ∧ s.done = false ∧ s.err = .ok ∧ s.keyed = false
  /-- While `rst` is asserted every piece of the core's state has its reset value (R146). -/
  reset : s.rst = true → s = { State.resetOf s.cfg with rst := true, inputs := s.inputs, draws := s.draws }

/-- The host's duties over a list of inputs, `rst` being at the given level: every access lies in the aperture (R52), and none
is made while `rst` is asserted (R146, U7). -/
def dutiful (p : Params) : Bool → List Input → Bool
  | _, [] => true
  | level, .access a :: rest => !level && inAperture p a.addr && dutiful p level rest
  | level, .tick :: rest => dutiful p level rest
  | _, .rst level :: rest => dutiful p level rest

/-- The host keeps its duties in every access that is pending. -/
def State.Dutiful (s : State) : Prop := dutiful s.cfg s.rst s.inputs = true

/-- A safe run never stops: every number of steps answers a next state. -/
def State.SafeRun (s : State) : Prop := ∀ n : Nat, ∃ t : State, Sys2Proof.core.run n s = .next t

/-- Two states agree on everything but the secrets, the key buffer and the key schedule (R139). -/
def State.AgreeButKeys (s t : State) : Prop := t = { s with keybuf := t.keybuf, ks := t.ks }

/-- The core is out of reset, initialised, and the sequencer moves next, with `rest` pending after that: the moment a command in
flight completes. -/
def State.AtCompletion (rest : List Input) (s : State) : Prop :=
  s.rst = false ∧ s.initialising = false ∧ s.inflight = true ∧
    ((s.inputs = [] ∧ rest = []) ∨ s.inputs = .tick :: rest)

/-! The rules' own words, written apart from the meanings. -/

/-- `v[hi:lo]` as a number (R9). -/
def slice (v : Word) (hi lo : Nat) : Nat := v.toNat / 2 ^ lo % 2 ^ (hi + 1 - lo)

/-- The conditions of R70, one by one. -/
def IllegalByR70 (w : Word) : Prop :=
  slice w 31 24 ≠ 0 ∨ slice w 7 4 ≠ 0 ∨ 0xA ≤ slice w 3 0 ∨
    (slice w 3 0 ∈ [0x0, 0x5, 0x6, 0x7, 0x9] ∧ slice w 23 8 ≠ 0) ∨
    (slice w 3 0 = 0x8 ∧ slice w 23 20 ≠ 0)

/-- The carry-less product of two polynomials over GF(2), `n` bits of `b` at most (R87). -/
def clmul (a b : Nat) : Nat → Nat
  | 0 => 0
  | n + 1 => clmul a b n ^^^ (if b.testBit n then a <<< n else 0)

/-- The 16-bit register `kb[w]` of the key block at byte `base` (R102). -/
def State.keyReg (s : State) (base w : Nat) : BitVec 16 :=
  s.keyByte (base + 2 * (3 - w)) ++ s.keyByte (base + 2 * (3 - w) + 1)

/-- The bit the `x`-th extraction takes from a register: 16 extractions complement it (R103). -/
def extractedBit (r : BitVec 16) (x : Nat) : Bool := r.getLsbD (x % 16) ^^ decide (x / 16 % 2 = 1)

/-- Word `m` of a subkey. -/
def Subkey.word (sk : Subkey) (m : Nat) : Half20 :=
  match m with
  | 0 => sk.w0
  | 1 => sk.w1
  | _ => sk.w2

/-- `sk` is the subkey that round `i` of a pass with rotation offset `l` builds from the key block at byte `base`, after `start`
extractions from each register: the first bit taken for a word ends at its bit 19, four bits for each turn of `j` (R104). -/
def State.IsSubkey (s : State) (base l start i : Nat) (sk : Subkey) : Prop :=
  ∀ m q k : Nat, m < 3 → q < 5 → k < 4 →
    (sk.word m).getLsbD (19 - (4 * q + k)) =
      extractedBit (s.keyReg base ((keyrot (i + l) + k) % 4)) (start + 15 * i + 3 * q + m)

end Sys2Proof.Machine
end

