-- ==== Sys2Proof/Certificates/Slice0/Obligations.lean ====
section
/-! DEFINITION. The statements for the provers. Each is about every state, or about every state the premise names. -/

open Sys2Proof Sys2Proof.Machine

/-! ## Encoding -/

/-- The spec's encoded examples (its own inference, R79: "Encoded examples [derived: from rule R67 and rule R76]"), by the
assembler and by the decoder. -/
def Obligations.SpecWordsDecodeAsTheSpecSays : Prop :=
  (assemble (.config 2) = some 0x00000201 ∧ decode 0x00000201 = .ok (.config 2)) ∧
  (assemble (.config 0) = some 0x00000001 ∧ decode 0x00000001 = .ok (.config 0)) ∧
  (assemble (.setkey 16) = some 0x00001002 ∧ decode 0x00001002 = .ok (.setkey 16)) ∧
  (assemble .encryptBlock = some 0x00000803 ∧ decode 0x00000803 = .ok (.encrypt 8)) ∧
  (assemble .decryptBlock = some 0x00000804 ∧ decode 0x00000804 = .ok (.decrypt 8)) ∧
  (assemble (.encrypt 7) = some 0x00000703 ∧ decode 0x00000703 = .ok (.encrypt 7) ∧
    ∀ s : State, exec (.encrypt 7) s = .next { s with err := .blocklen, done := true, inflight := false }) ∧
  (assemble (.sboxrd 3 1023) = some 0x000FFF08 ∧ decode 0x000FFF08 = .ok (.sboxrd 3 1023)) ∧
  (assemble (.sboxrd 0 0) = some 0x00000008 ∧ decode 0x00000008 = .ok (.sboxrd 0 0)) ∧
  (assemble (.raw 0x0000000A) = some 0x0000000A ∧ decode 0x0000000A = .error .opcode) ∧
  (assemble (.raw 0x00000015) = some 0x00000015 ∧ decode 0x00000015 = .error .reservedLow) ∧
  (assemble (.raw 0x00000105) = some 0x00000105 ∧ decode 0x00000105 = .error .argument)

/-- Decode and encode agree on every command, every operand at every value its field admits, and a word that decodes is the
encoding of what it decodes to: each command has one word (R67, R69, R71). -/
def Obligations.DecodeAndEncodeAreInverse : Prop :=
  (∀ i : Instr, decode (encode i) = .ok i) ∧ (∀ (w : Word) (i : Instr), decode w = .ok i → encode i = w)

/-- R70: a word decodes unless one of its conditions holds; any word is accepted by an idle core; and an illegal one completes
with E_ILLEGAL and no other effect. -/
def Obligations.IllegalWordCompletesWithErrorOnly : Prop :=
  ∀ w : Word,
    ((∃ i, decode w = .ok i) ↔ ¬ IllegalByR70 w) ∧
    (∀ s : State, s.busy = false →
      s.transfer 0x000 (.write w) = { s with pcmd := w, inflight := true, done := false, reply := .written }) ∧
    (∀ (s : State) (rest : List Input), IllegalByR70 w → s.pcmd = w → s.AtCompletion rest →
      step s = .next { s with inputs := rest, err := .illegal, done := true, inflight := false })

/-- R76's table: each statement in range assembles to the word of its command, and a number out of range is refused. -/
def Obligations.AssemblerWordsAreTheCommands : Prop :=
  (assemble .nop = some (encode .nop) ∧ assemble .gfmul = some (encode .gfmul) ∧
    assemble .gfexp7 = some (encode .gfexp7) ∧ assemble .perm32 = some (encode .perm32) ∧
    assemble .ftest = some (encode .ftest)) ∧
  (∀ n : Nat, n ≤ 65535 →
    assemble (.config n) = some (encode (.config (BitVec.ofNat 16 n))) ∧
    assemble (.setkey n) = some (encode (.setkey (BitVec.ofNat 16 n))) ∧
    assemble (.encrypt n) = some (encode (.encrypt (BitVec.ofNat 16 n))) ∧
    assemble (.decrypt n) = some (encode (.decrypt (BitVec.ofNat 16 n)))) ∧
  (∀ n : Nat, 65535 < n →
    assemble (.config n) = none ∧ assemble (.setkey n) = none ∧ assemble (.encrypt n) = none ∧
      assemble (.decrypt n) = none) ∧
  (∀ c i : Nat, c ≤ 3 → i ≤ 1023 →
    assemble (.sboxrd c i) = some (encode (.sboxrd (BitVec.ofNat 2 c) (BitVec.ofNat 10 i)))) ∧
  (∀ c i : Nat, 3 < c ∨ 1023 < i → assemble (.sboxrd c i) = none) ∧
  (∀ w : Word, assemble (.raw w.toNat) = some w)

/-! ## Reset, steps, acceptance, completion -/

/-- R50: the reset values, for every build; what CONFIG 0 would set is what reset leaves; and the S-box entries are R97's. -/
def Obligations.ResetLeavesTheSpecValues : Prop :=
  ∀ p : Params, ∀ s : State, s = State.resetOf p →
    (s.busy = true ↔ 0 < p.initLat) ∧ s.endInit.busy = false ∧ s.inflight = false ∧
    s.done = false ∧ s.ovr = false ∧ s.keyed = false ∧ s.err.code = 0 ∧ s.ie = false ∧
    s.size = 1 ∧ s.rounds = 8 ∧ s.keylen = 16 ∧
    s.regValue .nmax = BitVec.ofNat 32 p.nMax ∧ s.regValue .id = 0x49434501 ∧
    s.din0 = 0 ∧ s.din1 = 0 ∧ s.dout0 = 0 ∧ s.dout1 = 0 ∧
    s.gfA = 0 ∧ s.gfB = 0 ∧ s.gfM = 0 ∧ s.gfRes = 0 ∧
    s.permIn = 0 ∧ s.permOut = 0 ∧ s.sboxOut = 0 ∧
    s.fIn = 0 ∧ s.sk0 = 0 ∧ s.sk1 = 0 ∧ s.sk2 = 0 ∧ s.fOut = 0 ∧
    (∀ k : Nat, s.keyByte k = 0) ∧ (∀ i : Nat, s.ks.read i = ⟨0, 0, 0⟩) ∧
    s.irq = false ∧
    (∀ (i : BitVec 10) (c : BitVec 2),
      sbox i c = permute32 ((gfExp7 (sboxCol i ^^^ sxor c (sboxRow i)) (smod c (sboxRow i))).setWidth 32 <<<
        (24 - 8 * c.toNat))) ∧
    exec (.config 0) s = .next { s with err := .ok, done := true, inflight := false }

/-- A step at the moment of completion is the execution of the command the decoder reads from the word in flight, the input
consumed (R74, R75); and `withFetchWord` makes that moment the very next step, for any word (the model's form of a submitted
command, log 4 and log 12). -/
def Obligations.StepRunsTheDecodedCommand : Prop :=
  (∀ (s : State) (rest : List Input) (i : Instr), s.AtCompletion rest → decode s.pcmd = .ok i →
    step s = exec i { s with inputs := rest }) ∧
  (∀ (s : State) (w : Nat), (s.withFetchWord 32 w).AtCompletion s.inputs ∧ (s.withFetchWord 32 w).pcmd = BitVec.ofNat 32 w)

/-- R73: acceptance of a host write to CMD, and what it changes. -/
def Obligations.CommandWriteIsAcceptedOrDropped : Prop :=
  ∀ (s : State) (v : Word),
    s.transfer 0x000 (.write v) =
      (if s.inflight = true ∨ s.initialising = true then { s with ovr := true, reply := .written }
       else { s with pcmd := v, inflight := true, done := false, reply := .written }) ∧
    (s.transfer 0x000 (.write v)).busy = true

/-- Every command completes, whatever the state: a next state with DONE = 1 and nothing in flight, and the code reported is
E_OK or the command's own (R74, R131, R133). -/
def Obligations.EveryCommandCompletesWithItsOwnCodes : Prop :=
  ∀ (i : Instr) (s : State), ∃ t : State, exec i s = .next t ∧ t.done = true ∧ t.inflight = false ∧
    t.initialising = s.initialising ∧
    t.err ∈ (match i with
      | .nop => [ErrCode.ok]
      | .config _ => [.ok, .level]
      | .setkey _ => [.ok, .keylen]
      | .encrypt _ => [.ok, .blocklen]
      | .decrypt _ => [.ok, .blocklen]
      | .gfmul => [.ok, .operand]
      | .gfexp7 => [.ok, .operand]
      | .perm32 => [.ok]
      | .sboxrd _ _ => [.ok]
      | .ftest => [.ok])

/-- R132's precision: a command that fails leaves everything as it was but BUSY, DONE and ERR. -/
def Obligations.FailedCommandChangesOnlyStatus : Prop :=
  ∀ (s t : State) (rest : List Input), s.AtCompletion rest → step s = .next t → t.err ≠ .ok →
    t = { s with inputs := rest, err := t.err, done := true, inflight := false } ∧ t.busy = false

/-! ## Control commands -/

/-- R82: NOP does nothing but complete; its word is the only legal one of its opcode, and any other is E_ILLEGAL. -/
def Obligations.NopOnlyCompletes : Prop :=
  (∀ s : State, exec .nop s = .next { s with err := .ok, done := true, inflight := false }) ∧
  encode .nop = 0x00000000 ∧ decode 0x00000000 = .ok .nop ∧
  (∀ (w : Word) (s : State), slice w 3 0 = 0x0 → w ≠ 0 → s.pcmd = w →
    completePending s = .next { s with err := .illegal, done := true, inflight := false })

/-- R81 in CONFIG's effect: the registers of level n, the zeroed schedule, the key flag cleared; a level above N_MAX is
refused with E_LEVEL and no effect (R83). -/
def Obligations.ConfigBuildsTheLevel : Prop :=
  ∀ (n : BitVec 16) (s : State),
    exec (.config n) s = .next
      (if n.toNat > s.cfg.nMax then { s with err := .level, done := true, inflight := false }
       else if n = 0 then
        { s with size := 1, rounds := 8, keylen := 16, ks := [], keyed := false, err := .ok, done := true, inflight := false }
       else
        { s with size := n.setWidth 32, rounds := 16 * n.setWidth 32, keylen := 8 * n.setWidth 32, ks := [], keyed := false,
                 err := .ok, done := true, inflight := false })

/-! ## Galois Field commands -/

/-- GFMUL, with a valid modulus, writes to GF_RES the remainder of the carry-less product of GF_A and GF_B by GF_M, and
changes nothing else but its completion: the product is a multiple of GF_M plus that byte, which is of lower degree (R87
(a), R89). With any other modulus it fails with E_OPERAND and no other effect. -/
def Obligations.GfmulWritesTheCarrylessRemainder : Prop :=
  ∀ s : State,
    (s.gfM.getLsbD 8 = true → ∃ res q : Byte,
      exec .gfmul s = .next { s with gfRes := res, err := .ok, done := true, inflight := false } ∧
      clmul s.gfA.toNat s.gfB.toNat 8 = clmul s.gfM.toNat q.toNat 8 ^^^ res.toNat) ∧
    (s.gfM.getLsbD 8 = false → exec .gfmul s = .next { s with err := .operand, done := true, inflight := false })

/-- The laws of `multiply` (the spec's own inference, R87: "Arithmetic laws of `multiply`, for every valid m", (b) to (e)):
commutative, associative, 0 and 1, distributive over XOR. -/
def Obligations.GfMultiplyIsARing : Prop :=
  ∀ (a b c : Byte) (m : Modulus), m.getLsbD 8 = true →
    gfMul a b m = gfMul b a m ∧
    gfMul (gfMul a b m) c m = gfMul a (gfMul b c m) m ∧
    gfMul 0 b m = 0 ∧ gfMul a 0 m = 0 ∧
    gfMul 1 b m = b ∧ gfMul a 1 m = a ∧
    gfMul (a ^^^ c) b m = gfMul a b m ^^^ gfMul c b m

/-- GFEXP7 writes the seventh power, however it is formed, for a valid modulus, and fails with E_OPERAND for any other, GF_A
= 0 included (R88, R90). -/
def Obligations.Gfexp7WritesTheSeventhPower : Prop :=
  ∀ s : State,
    (s.gfM.getLsbD 8 = true → exec .gfexp7 s =
      .next { s with gfRes := (List.replicate 6 s.gfA).foldl (fun x b => gfMul x b s.gfM) s.gfA,
                     err := .ok, done := true, inflight := false }) ∧
    (s.gfM.getLsbD 8 = false → exec .gfexp7 s = .next { s with err := .operand, done := true, inflight := false })

/-! ## Permutation, S-box, round function -/

/-- R92: the mask of every set bit is ORed in; so output bit pos(i) is input bit i, with pos the "bit" column of R91, a
table the spec takes from general knowledge (log 1). And PERM32 writes that to PERM_OUT and changes nothing else but its
completion (R94). -/
def Obligations.PermutationMovesEachBit : Prop :=
  (∀ (x : Word) (j : Nat), (permute32 x).getLsbD j = true ↔ ∃ i, i < 32 ∧ x.getLsbD i = true ∧ (pbox i).getLsbD j = true) ∧
  (∀ (x : Word) (i : Nat), i < 32 →
    (permute32 x).getLsbD
      (([0, 7, 10, 13, 19, 21, 24, 30] ++ [3, 5, 8, 14, 16, 23, 26, 29] ++
        [2, 4, 9, 15, 17, 22, 27, 28] ++ [1, 6, 11, 12, 18, 20, 25, 31]).getD i 0) = x.getLsbD i) ∧
  (∀ s : State, exec .perm32 s =
    .next { s with permOut := permute32 s.permIn, err := .ok, done := true, inflight := false })

/-- The laws of the permutation (the spec's own inference, R93: "Laws of `permute32` [derived: from rule R92]"). -/
def Obligations.PermutationLaws : Prop :=
  Function.Bijective permute32 ∧ permute32 0 = 0 ∧ permute32 0xFFFFFFFF = 0xFFFFFFFF ∧
  (∀ x : Word, (List.range 32).countP (fun i => (permute32 x).getLsbD i) = (List.range 32).countP (fun i => x.getLsbD i)) ∧
  (∀ x y : Word, permute32 (x ^^^ y) = permute32 x ^^^ permute32 y ∧ permute32 (x &&& y) = permute32 x &&& permute32 y ∧
    permute32 (x ||| y) = permute32 x ||| permute32 y) ∧
  (∀ x : Word, (permute32 x).getLsbD 0 = x.getLsbD 0 ∧ (permute32 x).getLsbD 31 = x.getLsbD 31) ∧
  permute32 0xFF000000 = 0x82141842 ∧ permute32 0x00FF0000 = 0x18428214 ∧
  permute32 0x0000FF00 = 0x24814128 ∧ permute32 0x000000FF = 0x41282481 ∧
  (∀ j : Nat, j < 32 →
    [(0x82141842 : Word), 0x18428214, 0x24814128, 0x41282481].countP (fun m => m.getLsbD j) = 1)

/-- R96 and R97: SBOXRD writes the entry of its column and row, built from `col` = bits [8:1] and `row` = 2·i[9] + i[0]. -/
def Obligations.SboxrdWritesTheEntry : Prop :=
  ∀ (c : BitVec 2) (i : BitVec 10) (s : State) (col : Byte) (row : BitVec 2),
    col.toNat = i.toNat / 2 % 256 → row.toNat = 2 * (i.toNat / 512) + i.toNat % 2 →
    exec (.sboxrd c i) s =
      .next { s with sboxOut := permute32 ((gfExp7 (col ^^^ sxor c row) (smod c row)).setWidth 32 <<< (24 - 8 * c.toNat)),
                     err := .ok, done := true, inflight := false }

/-- The spec's own inference (R99: "Properties of the table [derived: from rule R97"): the columns stay in four disjoint
lanes that cover the word, the entries of a row set are distinct, and an entry is 0 exactly where col is SXOR's constant. -/
def Obligations.SboxColumnsAreDisjointLanes : Prop :=
  let lane : BitVec 2 → Word := fun c => permute32 ((0xFF : Word) <<< (24 - 8 * c.toNat))
  lane 0 = 0x82141842 ∧ lane 1 = 0x18428214 ∧ lane 2 = 0x24814128 ∧ lane 3 = 0x41282481 ∧
  (∀ (i : BitVec 10) (c : BitVec 2), sbox i c &&& ~~~ lane c = 0) ∧
  (∀ c d : BitVec 2, c ≠ d → lane c &&& lane d = 0) ∧
  lane 0 ||| lane 1 ||| lane 2 ||| lane 3 = 0xFFFFFFFF ∧
  (∀ al ar : Half20, lookup4 al ar =
    sbox (al.extractLsb' 10 10) 0 ^^^ sbox (al.extractLsb' 0 10) 1 ^^^ sbox (ar.extractLsb' 10 10) 2
      ^^^ sbox (ar.extractLsb' 0 10) 3) ∧
  (∀ (i j : BitVec 10) (c : BitVec 2), sboxRow i = sboxRow j → sbox i c = sbox j c → i = j) ∧
  (∀ (i : BitVec 10) (c : BitVec 2), sbox i c = 0 ↔ sboxCol i = sxor c (sboxRow i))

/-- The expansion in the field form the spec infers (R109: "In field form [derived: from the formulas]", the formulas from
general knowledge, log 1): its four 10-bit fields are windows of the half-block. -/
def Obligations.ExpansionIsFourWindows : Prop :=
  ∀ p : Word,
    (expandLeft p).toNat = slice p 1 0 * 2 ^ 18 + slice p 31 24 * 2 ^ 10 + slice p 25 16 ∧
    (expandRight p).toNat = slice p 17 8 * 2 ^ 10 + slice p 9 0

/-- The spec's own inference (R111: "The first three steps of F are a keyed swap [derived: from rule R110]"): they exchange
the bits of tl and tr that sk[2] selects. -/
def Obligations.RoundFunctionIsAKeyedSwap : Prop :=
  ∀ (p : Word) (sk : Subkey),
    roundF p sk = lookup4
      ((expandLeft p &&& ~~~ sk.w2 ||| expandRight p &&& sk.w2) ^^^ sk.w0)
      ((expandRight p &&& ~~~ sk.w2 ||| expandLeft p &&& sk.w2) ^^^ sk.w1) ∧
    (sk.w2 = 0 → roundF p sk = lookup4 (expandLeft p ^^^ sk.w0) (expandRight p ^^^ sk.w1)) ∧
    (sk.w2 = 0xFFFFF → roundF p sk = lookup4 (expandRight p ^^^ sk.w0) (expandLeft p ^^^ sk.w1)) ∧
    (∀ b : Nat, b < 20 →
      let al := expandLeft p &&& ~~~ sk.w2 ||| expandRight p &&& sk.w2
      let ar := expandRight p &&& ~~~ sk.w2 ||| expandLeft p &&& sk.w2
      (sk.w2.getLsbD b = true → al.getLsbD b = (expandRight p).getLsbD b ∧ ar.getLsbD b = (expandLeft p).getLsbD b) ∧
      (sk.w2.getLsbD b = false → al.getLsbD b = (expandLeft p).getLsbD b ∧ ar.getLsbD b = (expandRight p).getLsbD b))

/-- The complement property of F and its two values (the spec's own inference, R112: "because complementing p complements tl
and tr"). -/
def Obligations.RoundFunctionCommutesWithComplement : Prop :=
  (∀ (p : Word) (sk : Subkey),
    roundF p sk = roundF (p ^^^ 0xFFFFFFFF) ⟨sk.w0 ^^^ 0xFFFFF, sk.w1 ^^^ 0xFFFFF, sk.w2⟩) ∧
  roundF 0 ⟨0, 0, 0⟩ = 0x642E6D6E ∧ roundF 0xFFFFFFFF ⟨0, 0, 0⟩ = 0x7E5D51FC

/-- FTEST writes F of its own operands, whatever the schedule, the key buffer and KEYED hold, and reads none of them (R113).
-/
def Obligations.FtestWritesRoundFunction : Prop :=
  ∀ (s : State) (buf : Memory) (ks : Schedule) (keyed : Bool),
    exec .ftest { s with keybuf := buf, ks := ks, keyed := keyed } =
      .next { s with keybuf := buf, ks := ks, keyed := keyed, fOut := roundF s.fIn ⟨s.sk0, s.sk1, s.sk2⟩,
                     err := .ok, done := true, inflight := false }

/-! ## Key schedule -/

/-- The length checks (R108, R119, R120): SETKEY with a length other than KEYLEN fails with E_KEYLEN, ENCRYPT and DECRYPT
with a length other than 8 fail with E_BLOCKLEN, and nothing else changes. -/
def Obligations.WrongLengthsAreRefused : Prop :=
  ∀ (len : BitVec 16) (s : State),
    (len.toNat ≠ s.keylen.toNat → exec (.setkey len) s = .next { s with err := .keylen, done := true, inflight := false }) ∧
    (len.toNat ≠ 8 →
      exec (.encrypt len) s = .next { s with err := .blocklen, done := true, inflight := false } ∧
      exec (.decrypt len) s = .next { s with err := .blocklen, done := true, inflight := false })

/-- R105 with R103, R104: in thin mode SETKEY writes slots 0..7 from key bytes 0..7, bit by bit, and nothing else but KEYED
and its completion. -/
def Obligations.SetkeyThinBuildsEightSlots : Prop :=
  ∀ s : State, s.Inv → s.rounds = 8 → ∃ t : State,
    exec (.setkey 16) s = .next t ∧
    t = { s with ks := t.ks, keyed := true, err := .ok, done := true, inflight := false } ∧
    (∀ i : Nat, i < 8 → s.IsSubkey 0 0 0 i (t.ks.read i)) ∧
    (∀ i : Nat, 8 ≤ i → t.ks.read i = s.ks.read i)

/-- R106 with R103, R104: at level n SETKEY writes, for each key block b, slots 8b..8b+7 at offset 0 and the mirror slots
ROUNDS-8-8b.. at offset 8 on the registers the first pass left, 120 extractions on; and nothing else but KEYED and its
completion. -/
def Obligations.SetkeyLevelBuildsMirroredSlots : Prop :=
  ∀ (s : State) (len : BitVec 16), s.Inv → s.NLevel → len.toNat = s.keylen.toNat → ∃ t : State,
    exec (.setkey len) s = .next t ∧
    t = { s with ks := t.ks, keyed := true, err := .ok, done := true, inflight := false } ∧
    (∀ b i : Nat, b < s.size.toNat → i < 8 →
      s.IsSubkey (8 * b) 0 0 i (t.ks.read (8 * b + i)) ∧
      s.IsSubkey (8 * b) 8 120 i (t.ks.read (s.rounds.toNat - 8 - 8 * b + i))) ∧
    (∀ i : Nat, s.rounds.toNat ≤ i → t.ks.read i = s.ks.read i)

/-- A level above 8191 has a KEYLEN that no 16-bit ARG equals, so no SETKEY of it succeeds (from R68, R81, R108; log 15). -/
def Obligations.LevelsAbove8191CannotBeKeyed : Prop :=
  ∀ (s : State) (len : BitVec 16), s.Inv → 8192 ≤ s.size.toNat →
    exec (.setkey len) s = .next { s with err := .keylen, done := true, inflight := false }

/-! ## Block cipher -/

/-- R114 in ENCRYPT: the halves run through ROUNDS half-rounds in slot order and come out swapped. -/
def Obligations.EncryptRunsTheRoundsInOrder : Prop :=
  ∀ (s : State) (n : Nat) (l r : Nat → Word), s.rounds.toNat = 2 * n →
    l 0 = s.din0 → r 0 = s.din1 →
    (∀ k : Nat, k < n → l (k + 1) = l k ^^^ roundF (r k) (s.ks.read (2 * k)) ∧
      r (k + 1) = r k ^^^ roundF (l (k + 1)) (s.ks.read (2 * k + 1))) →
    exec (.encrypt 8) s =
      .next { s with dout0 := r n, dout1 := l n, err := .ok, done := true, inflight := false }

/-- R115 in DECRYPT: the same with the slots in the reverse order. -/
def Obligations.DecryptRunsTheRoundsInReverse : Prop :=
  ∀ (s : State) (n : Nat) (l r : Nat → Word), s.rounds.toNat = 2 * n →
    l 0 = s.din0 → r 0 = s.din1 →
    (∀ k : Nat, k < n → l (k + 1) = l k ^^^ roundF (r k) (s.ks.read (2 * (n - k) - 1)) ∧
      r (k + 1) = r k ^^^ roundF (l (k + 1)) (s.ks.read (2 * (n - k) - 2))) →
    exec (.decrypt 8) s =
      .next { s with dout0 := r n, dout1 := l n, err := .ok, done := true, inflight := false }

/-- The spec's own inference (R116: "the output swap makes Decrypt's first half-round undo Encrypt's last"): ENCRYPT, then
DECRYPT of its output, gives the input back, and the other way round, for every schedule; and both are functions of DIN0,
DIN1, ROUNDS and KS. -/
def Obligations.DecryptAndEncryptAreInverse : Prop :=
  (∀ s t : State, s.rounds.toNat % 2 = 0 →
    (exec (.encrypt 8) s = .next t → ∃ u, exec (.decrypt 8) { t with din0 := t.dout0, din1 := t.dout1 } = .next u ∧
      u.dout0 = s.din0 ∧ u.dout1 = s.din1) ∧
    (exec (.decrypt 8) s = .next t → ∃ u, exec (.encrypt 8) { t with din0 := t.dout0, din1 := t.dout1 } = .next u ∧
      u.dout0 = s.din0 ∧ u.dout1 = s.din1)) ∧
  (∀ s s' : State, s'.din0 = s.din0 → s'.din1 = s.din1 → s'.rounds = s.rounds → s'.ks = s.ks →
    ∃ t t' u u', exec (.encrypt 8) s = .next t ∧ exec (.encrypt 8) s' = .next t' ∧ exec (.decrypt 8) s = .next u ∧
      exec (.decrypt 8) s' = .next u' ∧ t'.dout0 = t.dout0 ∧ t'.dout1 = t.dout1 ∧ u'.dout0 = u.dout0 ∧ u'.dout1 = u.dout1)

/-- The spec's own inference (R117: "[derived: from rule R114 and rule R115]"): with a schedule that reads the same both
ways ENCRYPT and DECRYPT are the same; an unkeyed core's is such a one. -/
def Obligations.PalindromicScheduleMakesThemEqual : Prop :=
  (∀ s : State, s.rounds.toNat % 2 = 0 →
    (∀ i : Nat, i < s.rounds.toNat → s.ks.read i = s.ks.read (s.rounds.toNat - 1 - i)) →
    exec (.encrypt 8) s = exec (.decrypt 8) s) ∧
  (∀ s : State, s.Inv → s.keyed = false → exec (.encrypt 8) s = exec (.decrypt 8) s) ∧
  (∀ s : State, s.ks = [] → s.rounds = 8 → s.din0 = 0 → s.din1 = 0 → ∃ t, exec (.encrypt 8) s = .next t ∧
    exec (.decrypt 8) s = .next t ∧ t.dout0 = 0x220EE2B2 ∧ t.dout1 = 0x9C781C03)

/-! ## Frames -/

/-- What the commands with a result register change: that register and their completion, and no key byte (R19). -/
def Obligations.ResultCommandsChangeOnlyTheirResult : Prop :=
  ∀ (s t : State) (i : Instr), exec i s = .next t →
    (i = .gfmul ∨ i = .gfexp7 → t = { s with gfRes := t.gfRes, err := t.err, done := true, inflight := false }) ∧
    (i = .perm32 → t = { s with permOut := t.permOut, err := t.err, done := true, inflight := false }) ∧
    ((∃ c index, i = .sboxrd c index) → t = { s with sboxOut := t.sboxOut, err := t.err, done := true, inflight := false }) ∧
    (i = .ftest → t = { s with fOut := t.fOut, err := t.err, done := true, inflight := false }) ∧
    ((∃ len, i = .encrypt len ∨ i = .decrypt len) →
      t = { s with dout0 := t.dout0, dout1 := t.dout1, err := t.err, done := true, inflight := false }) ∧
    (i = .nop → t = { s with err := t.err, done := true, inflight := false }) ∧
    (∀ k : Nat, t.keyByte k = s.keyByte k)

/-- What CONFIG and SETKEY change: the instance's registers, the schedule, KEYED and their completion, and no key byte
(R19). -/
def Obligations.InstanceCommandsChangeOnlyTheInstance : Prop :=
  ∀ (s t : State),
    (∀ n : BitVec 16, exec (.config n) s = .next t →
      t = { s with size := t.size, rounds := t.rounds, keylen := t.keylen, ks := t.ks, keyed := t.keyed,
                   err := t.err, done := true, inflight := false } ∧ ∀ k : Nat, t.keyByte k = s.keyByte k) ∧
    (∀ len : BitVec 16, exec (.setkey len) s = .next t →
      t = { s with ks := t.ks, keyed := t.keyed, err := t.err, done := true, inflight := false } ∧
      ∀ k : Nat, t.keyByte k = s.keyByte k)

/-! ## STATUS, CTRL and irq -/

/-- R25: OVR is set by an ignored write, cleared by a write of 1 to STATUS bit 2 and by reset, and changed by nothing else. -/
def Obligations.OverrunFlagFollowsItsRule : Prop :=
  (∀ p : Params, (State.resetOf p).ovr = false) ∧
  (∀ (s t : State), coreMove s = .next t → t.ovr = s.ovr) ∧
  (∀ (s : State) (off : Nat), (s.transfer off .read).ovr = s.ovr) ∧
  (∀ (s : State) (off : Nat) (v : Word),
    (s.transfer off (.write v)).ovr =
      if s.busy = true ∧ (regAt s.cfg off).blockedWhileBusy = true then true
      else if regAt s.cfg off = .status ∧ v.getLsbD 2 = true then false
      else s.ovr)

/-- R24, and R27 in part: DONE is set by every completion, cleared by acceptance and by a write of 1 to STATUS bit 1, and
left by a write of 0; ERR is written at a completion and by nothing else. -/
def Obligations.DoneAndErrorFollowTheirRules : Prop :=
  (∀ p : Params, (State.resetOf p).done = false ∧ (State.resetOf p).err = .ok) ∧
  (∀ (s t : State) (rest : List Input), s.AtCompletion rest → step s = .next t → t.done = true) ∧
  (∀ (s : State) (v : Word), s.busy = false → (s.transfer 0x000 (.write v)).done = false) ∧
  (∀ (s : State) (v : Word), (s.transfer 0x004 (.write v)).done = if v.getLsbD 1 = true then false else s.done) ∧
  (∀ (s : State) (off : Nat) (k : AccessKind), (s.transfer off k).err = s.err) ∧
  (∀ (s t : State), coreMove s = .next t → t.err ≠ s.err → s.inflight = true ∧ t.inflight = false ∧ t.done = true)

/-- R26: KEYED is cleared by a successful CONFIG, set by a successful SETKEY, and changed by no other command and no failed
one; and it does not change what ENCRYPT and DECRYPT compute. -/
def Obligations.KeyedFlagFollowsItsRule : Prop :=
  (∀ p : Params, (State.resetOf p).keyed = false) ∧
  (∀ (i : Instr) (s t : State), exec i s = .next t →
    t.keyed =
      (if t.err = .ok then
        (match i with
          | .config _ => false
          | .setkey _ => true
          | .nop | .encrypt _ | .decrypt _ | .gfmul | .gfexp7 | .perm32 | .sboxrd _ _ | .ftest => s.keyed)
       else s.keyed)) ∧
  (∀ (s t : State) (e : Illegal), decode s.pcmd = .error e → coreMove s = .next t → t.keyed = s.keyed) ∧
  (∀ (s : State) (off : Nat) (k : AccessKind), (s.transfer off k).keyed = s.keyed) ∧
  (∀ (s : State) (b : Bool) (len : BitVec 16), ∃ t u, exec (.encrypt len) s = .next t ∧
    exec (.encrypt len) { s with keyed := b } = .next { t with keyed := b } ∧ exec (.decrypt len) s = .next u ∧
    exec (.decrypt len) { s with keyed := b } = .next { u with keyed := b })

/-- R49, and R138 of its edges: irq is DONE and IE, 0 at reset; every completion raises it when enabled; it falls with the
acknowledge, with the next acceptance, and with IE = 0, which leaves DONE; the end of initialisation does not raise it. -/
def Obligations.InterruptIsDoneAndEnabled : Prop :=
  (∀ s : State, s.irq = (s.done && s.ie)) ∧ (∀ p : Params, (State.resetOf p).irq = false) ∧
  (∀ (i : Instr) (s t : State), exec i s = .next t → t.irq = s.ie) ∧
  (∀ (s : State) (v : Word),
    (v.getLsbD 1 = true → (s.transfer 0x004 (.write v)).irq = false) ∧
    (s.busy = false → (s.transfer 0x000 (.write v)).irq = false) ∧
    (v.getLsbD 0 = false → (s.transfer 0x008 (.write v)).irq = false ∧ (s.transfer 0x008 (.write v)).done = s.done)) ∧
  (∀ s : State, s.endInit.irq = s.irq)

/-! ## The register interface -/

/-- R18: the narrow registers keep and return their meaningful bits only. -/
def Obligations.NarrowRegistersKeepTheirBits : Prop :=
  (∀ (s : State) (v : Word), s.busy = false →
    (((s.transfer 0x008 (.write v)).transfer 0x008 .read).reply = .data (v &&& 0x1)) ∧
    (((s.transfer 0x030 (.write v)).transfer 0x030 .read).reply = .data (v &&& 0xFF)) ∧
    (((s.transfer 0x034 (.write v)).transfer 0x034 .read).reply = .data (v &&& 0xFF)) ∧
    (((s.transfer 0x038 (.write v)).transfer 0x038 .read).reply = .data (v &&& 0x1FF)) ∧
    (((s.transfer 0x050 (.write v)).transfer 0x050 .read).reply = .data (v &&& 0xFFFFF)) ∧
    (((s.transfer 0x054 (.write v)).transfer 0x054 .read).reply = .data (v &&& 0xFFFFF)) ∧
    (((s.transfer 0x058 (.write v)).transfer 0x058 .read).reply = .data (v &&& 0xFFFFF)) ∧
    (s.transfer 0x030 (.write 0x1FF)).gfA = 0xFF) ∧
  (∀ s : State, s.regValue .gfRes &&& ~~~ 0xFF = 0 ∧ s.regValue .status &&& ~~~ 0xFF = 0) ∧
  (∀ (s : State) (v : Word), s.transfer 0x004 (.write v) = s.transfer 0x004 (.write (v &&& 0x6)))

/-- R45: the bytes of a word written to KEYBUF, the first the most significant, and no other byte changes. -/
def Obligations.KeyBufferWordHoldsItsBytes : Prop :=
  (∀ (s : State) (w : Nat) (v : Word), s.Inv → s.busy = false → 4 * w < s.cfg.keybufBytes →
    (s.transfer (0x100 + 4 * w) (.write v)) =
      { s with keybuf := (s.transfer (0x100 + 4 * w) (.write v)).keybuf, reply := .written } ∧
    ∀ k : Nat, (s.transfer (0x100 + 4 * w) (.write v)).keyByte k =
      if k / 4 = w then BitVec.ofNat 8 (slice v (31 - 8 * (k % 4)) (24 - 8 * (k % 4))) else s.keyByte k) ∧
  (∀ p : Params,
    let s := (((State.resetOf p).performWrite (.keybuf 0) 0x4353474F).performWrite (.keybuf 1) 0x10360000)
    let s := ((s.performWrite (.keybuf 2) 0x840D0000).performWrite (.keybuf 3) 0x61030000)
    (List.range 16).map s.keyByte = [67, 83, 71, 79, 16, 54, 0, 0] ++ [132, 13, 0, 0, 97, 3, 0, 0])

/-- R149: a write while BUSY = 1, by its target. -/
def Obligations.BusyWritesAreBlockedByTarget : Prop :=
  ∀ (s : State) (off : Nat) (v : Word), s.busy = true →
    ((regAt s.cfg off ∈ [Reg.cmd, .din0, .din1, .gfA, .gfB, .gfM, .permIn, .fIn, .sk0, .sk1, .sk2] ∨
        ∃ w, regAt s.cfg off = .keybuf w) →
      s.transfer off (.write v) = { s with ovr := true, reply := .written }) ∧
    (regAt s.cfg off = .status → s.transfer off (.write v) =
      { s with done := s.done && !v.getLsbD 1, ovr := s.ovr && !v.getLsbD 2, reply := .written }) ∧
    (regAt s.cfg off = .ctrl → s.transfer off (.write v) = { s with ie := v.getLsbD 0, reply := .written }) ∧
    (regAt s.cfg off ∈ [Reg.size, .rounds, .keylen, .nmax, .id, .dout0, .dout1, .gfRes, .permOut, .sboxOut, .fOut, .reserved] →
      s.transfer off (.write v) = { s with reply := .written })

/-- R150: a read while BUSY = 1. The unspecified ones return a free value within the register's meaningful bits, a fresh one
at each read (log 5); every other read returns the register's value; every read leaves the core as it was; and once BUSY = 0
every register reads its value again. -/
def Obligations.BusyReadsAreUnspecifiedByRegister : Prop :=
  ∀ (s : State) (off : Nat),
    (s.busy = true →
      (regAt s.cfg off ∈ [Reg.dout0, .dout1, .gfRes, .permOut, .sboxOut, .fOut, .size, .rounds, .keylen] →
        (s.transfer off .read).draws = s.draws + 1 ∧
        (s.transfer off .read).reply =
          .data (Config.freeRead s.draws &&& if regAt s.cfg off = .gfRes then 0xFF else 0xFFFFFFFF)) ∧
      (regAt s.cfg off ∈ [Reg.status, .ctrl, .nmax, .id, .din0, .din1, .gfA, .gfB, .gfM, .permIn, .fIn, .sk0, .sk1, .sk2] →
        (s.transfer off .read).reply = .data (s.regValue (regAt s.cfg off))) ∧
      (regAt s.cfg off = .cmd ∨ regAt s.cfg off = .reserved ∨ (∃ w, regAt s.cfg off = .keybuf w) →
        (s.transfer off .read).reply = .data 0)) ∧
    s.transfer off .read = { s with reply := (s.transfer off .read).reply, draws := (s.transfer off .read).draws } ∧
    (s.busy = false → (s.transfer off .read).reply = .data (s.regValue (regAt s.cfg off)))

/-- An access in the aperture that is not an aligned 32-bit one gets the error response, and the core does not change (from
R54; that the step is a next state with the error response is the model's reading, log 8). -/
def Obligations.OtherAccessesGetABusError : Prop :=
  ∀ (s : State) (a : Access), s.rst = false → s.cfg.base ≤ a.addr → a.addr < s.cfg.base + s.cfg.apertureBytes →
    (a.bytes ≠ 4 ∨ (a.addr - s.cfg.base) % 4 ≠ 0) → serveAccess a s = .next { s with reply := .busError }

/-- R56: reads change nothing, and one that R150 does not leave unspecified repeats exactly; in a state of the invariant a
write to any target but CMD made twice is as one; a write has a side effect only at CMD, at STATUS and by setting OVR: each
performed write's whole effect is written out, target by target (R17, R18), and a blocked one only sets OVR; read-only
registers and reserved offsets ignore writes. -/
def Obligations.AccessSideEffectsAreOnlyTheNamedOnes : Prop :=
  (∀ (s : State) (off : Nat),
    s.transfer off .read = { s with reply := (s.transfer off .read).reply, draws := (s.transfer off .read).draws }) ∧
  (∀ (s : State) (off : Nat), s.busy = false ∨ (regAt s.cfg off).unspecifiedWhileBusy = false →
    ((s.transfer off .read).transfer off .read) = s.transfer off .read) ∧
  (∀ (s : State) (off : Nat) (v : Word), s.Inv → regAt s.cfg off ≠ .cmd →
    (s.transfer off (.write v)).transfer off (.write v) = s.transfer off (.write v)) ∧
  (∀ (s : State) (off : Nat) (v : Word), s.busy = true → (regAt s.cfg off).blockedWhileBusy = true →
    s.transfer off (.write v) = { s with ovr := true, reply := .written }) ∧
  (∀ (s : State) (v : Word), s.busy = false →
    s.transfer 0x000 (.write v) = { s with pcmd := v, inflight := true, done := false, reply := .written }) ∧
  (∀ (s : State) (v : Word), s.busy = false →
    s.transfer 0x020 (.write v) = { s with din0 := v, reply := .written } ∧
    s.transfer 0x024 (.write v) = { s with din1 := v, reply := .written } ∧
    s.transfer 0x030 (.write v) = { s with gfA := v.setWidth 8, reply := .written } ∧
    s.transfer 0x034 (.write v) = { s with gfB := v.setWidth 8, reply := .written } ∧
    s.transfer 0x038 (.write v) = { s with gfM := v.setWidth 9, reply := .written } ∧
    s.transfer 0x040 (.write v) = { s with permIn := v, reply := .written } ∧
    s.transfer 0x04C (.write v) = { s with fIn := v, reply := .written } ∧
    s.transfer 0x050 (.write v) = { s with sk0 := v.setWidth 20, reply := .written } ∧
    s.transfer 0x054 (.write v) = { s with sk1 := v.setWidth 20, reply := .written } ∧
    s.transfer 0x058 (.write v) = { s with sk2 := v.setWidth 20, reply := .written } ∧
    (∀ w : Nat, 4 * w < s.cfg.keybufBytes →
      s.transfer (0x100 + 4 * w) (.write v) = { s with keybuf := writeKeyWord s.keybuf w v, reply := .written })) ∧
  (∀ (s : State) (v : Word), s.transfer 0x008 (.write v) = { s with ie := v.getLsbD 0, reply := .written }) ∧
  (∀ (s : State) (v : Word),
    s.transfer 0x004 (.write v) = { s with done := s.done && !v.getLsbD 1, ovr := s.ovr && !v.getLsbD 2, reply := .written }) ∧
  (∀ (s : State) (off : Nat) (v : Word), regAt s.cfg off ≠ .cmd →
    (s.transfer off (.write v)).inflight = s.inflight ∧ (s.transfer off (.write v)).pcmd = s.pcmd) ∧
  (∀ (s : State) (off : Nat) (v : Word), regAt s.cfg off ≠ .cmd → regAt s.cfg off ≠ .status →
    (s.transfer off (.write v)).done = s.done ∧
    (s.busy = false ∨ (regAt s.cfg off).blockedWhileBusy = false → (s.transfer off (.write v)).ovr = s.ovr)) ∧
  (∀ (s : State) (off : Nat) (v : Word),
    regAt s.cfg off ∈ [Reg.size, .rounds, .keylen, .nmax, .id, .dout0, .dout1, .gfRes, .permOut, .sboxOut, .fOut, .reserved] →
    s.transfer off (.write v) = { s with reply := .written })

/-- R43: the gap below KEYBUF and the offsets above its last word read 0 and ignore writes; no status bit, no bus error. -/
def Obligations.ReservedOffsetsReadZeroIgnoreWrites : Prop :=
  ∀ (s : State) (off : Nat), off % 4 = 0 → off < s.cfg.apertureBytes → s.rst = false →
    ((0x060 ≤ off ∧ off ≤ 0x0FC) ∨ 0x100 + s.cfg.keybufBytes ≤ off) →
    serveAccess ⟨s.cfg.base + off, 4, .read⟩ s = .next { s with reply := .data 0 } ∧
    ∀ v : Word, serveAccess ⟨s.cfg.base + off, 4, .write v⟩ s = .next { s with reply := .written }

/-- The register map of R17: every register answers a read at its offset with its value while the core is idle, and KEYBUF
with 0. -/
def Obligations.RegisterMapAnswersAtItsOffsets : Prop :=
  ∀ s : State, s.rst = false → s.busy = false →
    (∀ e ∈ [(0x000, (0 : Word)), (0x004, s.statusWord), (0x008, s.ctrlWord), (0x00C, s.size), (0x010, s.rounds)] ++
        [(0x014, s.keylen), (0x018, BitVec.ofNat 32 s.cfg.nMax), (0x01C, 0x49434501), (0x020, s.din0), (0x024, s.din1)] ++
        [(0x028, s.dout0), (0x02C, s.dout1), (0x030, s.gfA.setWidth 32), (0x034, s.gfB.setWidth 32)] ++
        [(0x038, s.gfM.setWidth 32), (0x03C, s.gfRes.setWidth 32), (0x040, s.permIn), (0x044, s.permOut)] ++
        [(0x048, s.sboxOut), (0x04C, s.fIn), (0x050, s.sk0.setWidth 32), (0x054, s.sk1.setWidth 32)] ++
        [(0x058, s.sk2.setWidth 32), (0x05C, s.fOut)],
      serveAccess ⟨s.cfg.base + e.1, 4, .read⟩ s = .next { s with reply := .data e.2 }) ∧
    (∀ w : Nat, 4 * w < s.cfg.keybufBytes →
      serveAccess ⟨s.cfg.base + 0x100 + 4 * w, 4, .read⟩ s = .next { s with reply := .data 0 })

/-! ## Reset input, initialisation, order -/

/-- R146, an access during reset by log 10: asserting the reset input gives every piece of state its reset value and
abandons a command in flight; no access is served while it is asserted; at its deassertion the core initialises; and what
CONFIG 0 reproduces of it, and what not. -/
def Obligations.ResetInputRestoresTheResetState : Prop :=
  (∀ (s : State) (rest : List Input), s.inputs = .rst true :: rest →
    step s = .next { State.resetOf s.cfg with rst := true, inputs := rest, draws := s.draws }) ∧
  (∀ (s : State) (rest : List Input), s.rst = true → s.inputs = .rst false :: rest →
    step s = .next { State.resetOf s.cfg with inputs := rest, draws := s.draws }) ∧
  (∀ (s : State) (a : Access) (rest : List Input), s.rst = true → s.inputs = .access a :: rest →
    step s = .fault .accessDuringReset) ∧
  (∀ s : State, s.rst = true → coreMove s = .next s) ∧
  (∀ s : State, ∃ t, exec (.config 0) s = .next t ∧ t.size = 1 ∧ t.rounds = 8 ∧ t.keylen = 16 ∧ t.ks = [] ∧ t.keyed = false ∧
    t.keybuf = s.keybuf ∧ t.din0 = s.din0 ∧ t.din1 = s.din1 ∧ t.gfA = s.gfA ∧ t.gfB = s.gfB ∧ t.gfM = s.gfM ∧
    t.permIn = s.permIn ∧ t.fIn = s.fIn ∧ t.sk0 = s.sk0 ∧ t.sk1 = s.sk1 ∧ t.sk2 = s.sk2 ∧ t.dout0 = s.dout0 ∧
    t.dout1 = s.dout1 ∧ t.gfRes = s.gfRes ∧ t.permOut = s.permOut ∧ t.sboxOut = s.sboxOut ∧ t.fOut = s.fOut ∧
    t.ie = s.ie ∧ t.ovr = s.ovr)

/-- The end of initialisation: BUSY falls and nothing else changes; until then a CMD write is dropped and sets OVR (R147). -/
def Obligations.InitialisationEndsQuietly : Prop :=
  ∀ s : State, s.Inv → s.rst = false → s.initialising = true →
    s.busy = true ∧ coreMove s = .next { s with initialising := false } ∧ s.endInit.busy = false ∧ s.endInit.irq = false ∧
    ∀ v : Word, s.transfer 0x000 (.write v) = { s with ovr := true, reply := .written }

/-- The two orders of a CMD write and a completion (R134): before it the write is dropped and OVR is set; after it the write
is accepted. Both are runs of the model (log 4). -/
def Obligations.CommandWriteAndCompletionInBothOrders : Prop :=
  ∀ (s : State) (v : Word), s.rst = false → s.initialising = false → s.inflight = true →
    (∃ t u, Sys2Proof.core.run 2 { s with inputs := [.access ⟨s.cfg.base, 4, .write v⟩, .tick] } = .next t ∧
      coreMove { s with inputs := [] } = .next u ∧
      t = { u with ovr := true, reply := .written } ∧ t.inflight = false ∧ t.done = true) ∧
    (∃ t u, Sys2Proof.core.run 2 { s with inputs := [.tick, .access ⟨s.cfg.base, 4, .write v⟩] } = .next t ∧
      coreMove { s with inputs := [] } = .next u ∧
      t = { u with pcmd := v, inflight := true, done := false, reply := .written })

/-! ## Whole-machine rules -/

/-- The invariant holds in every reset state. -/
def Obligations.InvariantHoldsAtReset : Prop :=
  ∀ p : Params, (State.resetOf p).Inv

/-- Every step keeps the invariant: canonical memories, a legal configuration, a zero schedule while unkeyed, a quiet reset
and initialisation. -/
def Obligations.EveryStepKeepsTheInvariant : Prop :=
  ∀ s t : State, s.Inv → step s = .next t → t.Inv

/-- The spec's own inference (R34: "[derived: from 40_control.md rule R81"): SIZE, ROUNDS and KEYLEN are legal in every
state that meets the invariant. -/
def Obligations.ConfigurationRegistersStayLegal : Prop :=
  ∀ s : State, s.Inv →
    s.rounds.toNat % 2 = 0 ∧ 8 ≤ s.rounds.toNat ∧ (s.rounds = 8 ↔ s.Thin) ∧
    1 ≤ s.size.toNat ∧ s.size.toNat ≤ max 1 s.cfg.nMax ∧
    s.keylen.toNat = (if s.rounds = 8 then 16 else 8 * s.size.toNat) ∧ s.rounds.toNat ≤ s.cfg.ksSlots

/-- Who writes what (R19, R32, R35, R37): no step changes the parameters; no move of the sequencer changes an operand
register, the key buffer or CTRL; and no access changes a result register, the instance's registers or the schedule. -/
def Obligations.OperandsAreTheHostsResultsTheCores : Prop :=
  (∀ s t : State, step s = .next t → t.cfg = s.cfg) ∧
  (∀ s t : State, coreMove s = .next t →
    t.din0 = s.din0 ∧ t.din1 = s.din1 ∧ t.gfA = s.gfA ∧ t.gfB = s.gfB ∧ t.gfM = s.gfM ∧ t.permIn = s.permIn ∧
    t.fIn = s.fIn ∧ t.sk0 = s.sk0 ∧ t.sk1 = s.sk1 ∧ t.sk2 = s.sk2 ∧ t.keybuf = s.keybuf ∧ t.ie = s.ie) ∧
  (∀ (s t : State) (a : Access), serveAccess a s = .next t →
    t.dout0 = s.dout0 ∧ t.dout1 = s.dout1 ∧ t.gfRes = s.gfRes ∧ t.permOut = s.permOut ∧ t.sboxOut = s.sboxOut ∧
    t.fOut = s.fOut ∧ t.size = s.size ∧ t.rounds = s.rounds ∧ t.keylen = s.keylen ∧ t.ks = s.ks)

/-- The command in flight computes on the operands of its acceptance: while it is in flight, no access changes one (R74,
R149). -/
def Obligations.OperandsAreFrozenInFlight : Prop :=
  ∀ (s t : State) (a : Access), s.inflight = true → serveAccess a s = .next t →
    t = { s with done := t.done, ovr := t.ovr, ie := t.ie, reply := t.reply, draws := t.draws }

/-- A host that keeps its duties never stops the core: no access outside the aperture and none in reset means no fault, in any
number of steps (from R52, R70, R146; log 9, log 10). -/
def Obligations.DutifulHostNeverStopsTheCore : Prop :=
  ∀ s : State, s.Dutiful → s.SafeRun

/-- Completion comes: once its inputs are used up, one more step leaves a core that is out of reset idle (R75; log 4). -/
def Obligations.CoreIsIdleOneStepAfterItsInputs : Prop :=
  ∀ s : State, s.Inv → s.Dutiful →
    ∃ t : State, Sys2Proof.core.run (s.inputs.length + 1) s = .next t ∧ t.inputs = [] ∧ (t.rst = false → t.busy = false)

/-- Key confidentiality (R139): two cores that differ in key buffer and schedule alone answer every access alike, and stay so
through every command but ENCRYPT and DECRYPT, which alone use the schedule. -/
def Obligations.OnlyBlockCommandsRevealTheKeys : Prop :=
  ∀ s t : State, s.AgreeButKeys t →
    (∀ (off : Nat) (k : AccessKind), (s.transfer off k).AgreeButKeys (t.transfer off k)) ∧
    (∀ i : Instr, (∀ len, i ≠ .encrypt len ∧ i ≠ .decrypt len) →
      ∃ s' t', exec i s = .next s' ∧ exec i t = .next t' ∧ s'.AgreeButKeys t')

/-! ## The host driver -/

/-- R127: the padding's length and value; and the output's length, which the spec infers from it. -/
def Obligations.PaddingIsOneToEightZeroBytes : Prop :=
  (∀ n : Nat, padLength n = 8 - n % 8 ∧ 1 ≤ padLength n ∧ padLength n ≤ 8) ∧
  (∀ x : List Byte,
    padded x = x ++ List.replicate (8 - x.length % 8) 0 ∧ (padded x).length = x.length + padLength x.length ∧
    (padded x).length % 8 = 0 ∧ 8 ≤ (padded x).length ∧ (padded x).length ≤ x.length + 8 ∧ x.length < (padded x).length) ∧
  25 + padLength 25 = 32 ∧ 8 + padLength 8 = 16 ∧ 0 + padLength 0 = 8

/-- `new` on an idle core (R121): within N_MAX the instance is built and done is reported; above it, or where the level does
not fit a command, the level is reported unsupported and the instance stays. -/
def Obligations.DriverNewBuildsOrReportsTheLevel : Prop :=
  ∀ (s : State) (level : Nat), s.Inv → s.rst = false → s.busy = false →
    (level ≤ s.cfg.nMax → (libNew level s).1 = .done ∧ (libNew level s).2.size.toNat = max 1 level ∧
      (libNew level s).2.rounds.toNat = (if level = 0 then 8 else 16 * level) ∧ (libNew level s).2.ks = []) ∧
    (s.cfg.nMax < level → (libNew level s).1 = .unsupportedLevel ∧ (libNew level s).2.size = s.size ∧
      (libNew level s).2.rounds = s.rounds ∧ (libNew level s).2.ks = s.ks)

/-- `set_key` on an idle core (R122): a wrong length is reported and nothing but the port's response changes; a right one
that fits a command is done, with the key's bytes in KEYBUF and KEYED = 1; a right one that no 16-bit ARG carries is
reported as such (the model's choice, log 15). -/
def Obligations.DriverSetKeyChecksThenKeys : Prop :=
  ∀ (s : State) (key : List Byte), s.Inv → s.rst = false → s.busy = false →
    (key.length ≠ s.keylen.toNat →
      (libSetKey key s).1 = .invalidKeyLength ∧ (libSetKey key s).2 = { s with reply := (libSetKey key s).2.reply }) ∧
    (key.length = s.keylen.toNat → key.length ≤ 65535 →
      (libSetKey key s).1 = .done ∧ (libSetKey key s).2.keyed = true ∧
      ∀ k : Nat, k < key.length → (libSetKey key s).2.keyByte k = key.getD k 0) ∧
    (key.length = s.keylen.toNat → 65535 < key.length →
      (libSetKey key s).1 = .notEncodable ∧ (libSetKey key s).2.ks = s.ks ∧ (libSetKey key s).2.keyed = s.keyed)

/-- The block operations on an idle core (R123): eight bytes give the eight bytes of the output registers, and any other
length the same report whether the driver or the core finds it. -/
def Obligations.DriverBlockOperationsReturnTheBlock : Prop :=
  ∀ (s : State) (b : List Byte) (early : Bool), s.Inv → s.rst = false → s.busy = false →
    (b.length = 8 →
      (libBlock .encrypt early b s).1 =
        .ok (wordBytes (encryptBlock s.ks s.rounds.toNat (be32 b 0) (be32 b 4)).1 ++
          wordBytes (encryptBlock s.ks s.rounds.toNat (be32 b 0) (be32 b 4)).2) ∧
      (libBlock .decrypt early b s).1 =
        .ok (wordBytes (decryptBlock s.ks s.rounds.toNat (be32 b 0) (be32 b 4)).1 ++
          wordBytes (decryptBlock s.ks s.rounds.toNat (be32 b 0) (be32 b 4)).2)) ∧
    (b.length ≠ 8 → ∀ d : Direction, (libBlock d early b s).1 = .error .invalidBlockLength)

/-- The spec's own inference (R130: "Because `decrypt_buffer` pads as well"): what `decrypt_buffer` gives of
`encrypt_buffer`'s output: the input, its padding, and the decryption of a zero block, `n + pad + 8` bytes. -/
def Obligations.DecryptBufferOfEncryptBuffer : Prop :=
  ∀ (s : State) (x : List Byte), s.Inv → s.rst = false → s.busy = false →
    ∃ (y z : List Byte) (t u : State), libBuffer .encrypt x s = (.ok y, t) ∧ libBuffer .decrypt y t = (.ok z, u) ∧
      z = x ++ List.replicate (padLength x.length) 0 ++
        wordBytes (decryptBlock s.ks s.rounds.toNat 0 0).1 ++ wordBytes (decryptBlock s.ks s.rounds.toNat 0 0).2 ∧
      z.length = x.length + padLength x.length + 8 ∧ z.take x.length = x
end

