-- ==== Sys2Proof/Laws/Memory.lean ====
section
/-! SUPPORT. The sparse memories: read after write, and that every operation keeps the canonical form. -/

namespace Sys2Proof.Machine

section Sparse

variable {α : Type} [DecidableEq α] {d : α}

omit [DecidableEq α] in
@[simp] theorem sparseRead_nil (a : Nat) : sparseRead d [] a = d := rfl

theorem sparseWf_mono {hi lo lo' : Nat} {m : List (Nat × α)} (h : lo' ≤ lo) (hm : sparseWf d hi lo m = true) :
    sparseWf d hi lo' m = true := by
  cases m with
  | nil => rfl
  | cons e rest =>
    simp only [sparseWf, Bool.and_eq_true, decide_eq_true_eq] at hm ⊢
    exact ⟨⟨⟨h.trans hm.1.1.1, hm.1.1.2⟩, hm.1.2⟩, hm.2⟩

/-- A key below every listed one is not listed. -/
theorem sparseRead_of_lt {hi lo a : Nat} {m : List (Nat × α)} (h : a < lo) (hm : sparseWf d hi lo m = true) :
    sparseRead d m a = d := by
  induction m generalizing lo with
  | nil => rfl
  | cons e rest ih =>
    simp only [sparseWf, Bool.and_eq_true, decide_eq_true_eq] at hm
    have hne : e.1 ≠ a := by omega
    simp only [sparseRead, hne, if_false]
    exact ih (lo := e.1 + 1) (by omega) hm.2

/-- A key at or above the bound is not listed. -/
theorem sparseRead_of_ge {hi lo a : Nat} {m : List (Nat × α)} (h : hi ≤ a) (hm : sparseWf d hi lo m = true) :
    sparseRead d m a = d := by
  induction m generalizing lo with
  | nil => rfl
  | cons e rest ih =>
    simp only [sparseWf, Bool.and_eq_true, decide_eq_true_eq] at hm
    have hne : e.1 ≠ a := by omega
    simp only [sparseRead, hne, if_false]
    exact ih hm.2

/-- A write keeps the canonical form. -/
theorem sparseWrite_wf {hi lo a : Nat} {x : α} {m : List (Nat × α)} (hlo : lo ≤ a) (hhi : a < hi)
    (hm : sparseWf d hi lo m = true) : sparseWf d hi lo (sparseWrite d m a x) = true := by
  induction m generalizing lo with
  | nil => by_cases hx : x = d <;> simp [sparseWrite, sparseWf, hx, hlo, hhi]
  | cons e rest ih =>
    simp only [sparseWf, Bool.and_eq_true, decide_eq_true_eq] at hm
    obtain ⟨⟨⟨h1, h2⟩, h3⟩, h4⟩ := hm
    simp only [sparseWrite]
    split
    · rename_i hlt
      split
      · simp [sparseWf, h1, h2, h3, h4]
      · rename_i hx
        have : a + 1 ≤ e.1 := hlt
        simp [sparseWf, hlo, hhi, hx, this, h2, h3, h4]
    · split
      · rename_i heq
        subst heq
        split
        · exact sparseWf_mono (by omega) h4
        · rename_i hx
          simp [sparseWf, hlo, hhi, hx, h4]
      · rename_i hnlt hne
        simp [sparseWf, h1, h2, h3, ih (lo := e.1 + 1) (by omega) h4]

/-- A read at the key just written gives the value written. -/
theorem sparseRead_write_same {hi lo : Nat} (a : Nat) (x : α) {m : List (Nat × α)} (hm : sparseWf d hi lo m = true) :
    sparseRead d (sparseWrite d m a x) a = x := by
  induction m generalizing lo with
  | nil => by_cases hx : x = d <;> simp [sparseWrite, sparseRead, hx]
  | cons e rest ih =>
    simp only [sparseWf, Bool.and_eq_true, decide_eq_true_eq] at hm
    obtain ⟨⟨⟨h1, h2⟩, h3⟩, h4⟩ := hm
    simp only [sparseWrite]
    split
    · rename_i hlt
      split
      · rename_i hx
        have hne : e.1 ≠ a := by omega
        simp only [sparseRead, hne, if_false]
        rw [sparseRead_of_lt (lo := e.1 + 1) (by omega) h4, hx]
      · simp [sparseRead]
    · split
      · rename_i heq
        split
        · rename_i hx
          rw [sparseRead_of_lt (lo := e.1 + 1) (by omega) h4, hx]
        · simp [sparseRead]
      · rename_i hnlt hne
        have hne' : e.1 ≠ a := Ne.symm hne
        simp only [sparseRead, hne', if_false]
        exact ih h4

/-- A read at any other key gives what it gave before. -/
theorem sparseRead_write_other {a b : Nat} (x : α) (m : List (Nat × α)) (h : b ≠ a) :
    sparseRead d (sparseWrite d m a x) b = sparseRead d m b := by
  have hab : a ≠ b := h.symm
  induction m with
  | nil => by_cases hx : x = d <;> simp [sparseWrite, sparseRead, hx, hab]
  | cons e rest ih =>
    simp only [sparseWrite]
    split
    · split <;> simp [sparseRead, hab]
    · split
      · rename_i heq
        have : e.1 ≠ b := heq ▸ hab
        split <;> simp [sparseRead, this, hab]
      · by_cases hk : e.1 = b <;> simp [sparseRead, hk, ih]

omit [DecidableEq α] in
/-- What a filter that looks at the key alone leaves, read. -/
theorem sparseRead_filter (p : Nat → Bool) (m : List (Nat × α)) (a : Nat) :
    sparseRead d (m.filter fun e => p e.1) a = if p a then sparseRead d m a else d := by
  induction m with
  | nil => simp [sparseRead]
  | cons e rest ih =>
    by_cases hp : p e.1 = true <;> by_cases hk : e.1 = a
    · subst hk; simp [List.filter, hp, sparseRead]
    · simp [List.filter, hp, sparseRead, hk, ih]
    · subst hk; simp [List.filter, hp, ih]
    · simp [List.filter, hp, sparseRead, hk, ih]

omit [DecidableEq α] in
/-- Reading two memories end to end, where no key of the first is that of an entry `d`. -/
theorem sparseRead_append (m n : List (Nat × α)) (a : Nat) :
    sparseRead d (m ++ n) a = if (m.any fun e => decide (e.1 = a)) then sparseRead d m a else sparseRead d n a := by
  induction m with
  | nil => simp
  | cons e rest ih =>
    by_cases hk : e.1 = a
    · simp [sparseRead, hk]
    · simp only [List.cons_append, sparseRead, List.any_cons, hk, if_false, decide_false, Bool.false_or, ih]

theorem sparseWf_filter {hi lo : Nat} (p : Nat × α → Bool) {m : List (Nat × α)} (hm : sparseWf d hi lo m = true) :
    sparseWf d hi lo (m.filter p) = true := by
  induction m generalizing lo with
  | nil => rfl
  | cons e rest ih =>
    simp only [sparseWf, Bool.and_eq_true, decide_eq_true_eq] at hm
    obtain ⟨⟨⟨h1, h2⟩, h3⟩, h4⟩ := hm
    by_cases hp : p e = true
    · simp [List.filter, hp, sparseWf, h1, h2, h3, ih h4]
    · simp only [List.filter, hp]
      exact sparseWf_mono (by omega) (ih h4)

/-- A filter on keys below a bound keeps the form with that bound. -/
theorem sparseWf_filter_lt {hi lo bound : Nat} {m : List (Nat × α)} (hm : sparseWf d hi lo m = true) :
    sparseWf d bound lo (m.filter fun e => decide (e.1 < bound)) = true := by
  induction m generalizing lo with
  | nil => rfl
  | cons e rest ih =>
    simp only [sparseWf, Bool.and_eq_true, decide_eq_true_eq] at hm
    obtain ⟨⟨⟨h1, h2⟩, h3⟩, h4⟩ := hm
    by_cases hp : e.1 < bound
    · simp [List.filter, hp, sparseWf, h1, h3, ih h4]
    · simp only [List.filter, hp, decide_false]
      exact sparseWf_mono (by omega) (ih h4)

/-- No key at or above the bound is left by a filter that keeps just those. -/
theorem filter_ge_eq_nil {hi lo : Nat} {m : List (Nat × α)} (hm : sparseWf d hi lo m = true) :
    (m.filter fun e => decide (hi ≤ e.1)) = [] := by
  induction m generalizing lo with
  | nil => rfl
  | cons e rest ih =>
    simp only [sparseWf, Bool.and_eq_true, decide_eq_true_eq] at hm
    have hn : ¬ hi ≤ e.1 := by omega
    simp [List.filter, hn, ih hm.2]

end Sparse

/-! The key buffer. -/

@[simp] theorem Memory.read_nil (a : Nat) : Memory.read [] a = 0 := rfl

@[simp] theorem Memory.wf_nil (n : Nat) : Memory.wf n [] = true := rfl

theorem Memory.write_wf {n a : Nat} {b : Byte} {m : Memory} (ha : a < n) (hm : m.wf n = true) :
    (m.write a b).wf n = true := sparseWrite_wf (Nat.zero_le a) ha hm

theorem Memory.read_write_same {n : Nat} (a : Nat) (b : Byte) {m : Memory} (hm : m.wf n = true) :
    (m.write a b).read a = b := sparseRead_write_same a b hm

theorem Memory.read_write_other {a c : Nat} (b : Byte) (m : Memory) (h : c ≠ a) :
    (m.write a b).read c = m.read c := sparseRead_write_other b m h

/-- A word written to KEYBUF keeps the canonical form. -/
theorem writeKeyWord_wf {n w : Nat} {m : Memory} (v : Word) (hw : 4 * w + 3 < n) (hm : m.wf n = true) :
    (writeKeyWord m w v).wf n = true :=
  Memory.write_wf (by omega) (Memory.write_wf (by omega) (Memory.write_wf (by omega) (Memory.write_wf (by omega) hm)))

/-- A byte outside the four of the word written is as it was. -/
theorem writeKeyWord_read_other {w k : Nat} (m : Memory) (v : Word) (h : k / 4 ≠ w) :
    (writeKeyWord m w v).read k = m.read k := by
  simp only [writeKeyWord]
  rw [Memory.read_write_other _ _ (by omega), Memory.read_write_other _ _ (by omega),
    Memory.read_write_other _ _ (by omega), Memory.read_write_other _ _ (by omega)]

/-- The bytes of the word written are its own, the most significant first (R45). -/
theorem writeKeyWord_read {n w j : Nat} {m : Memory} (v : Word) (hj : j < 4) (hw : 4 * w + 3 < n) (hm : m.wf n = true) :
    (writeKeyWord m w v).read (4 * w + j) = byteOf v j := by
  have h0 := Memory.write_wf (b := byteOf v 0) (show 4 * w < n by omega) hm
  have h1 := Memory.write_wf (b := byteOf v 1) (show 4 * w + 1 < n by omega) h0
  have h2 := Memory.write_wf (b := byteOf v 2) (show 4 * w + 2 < n by omega) h1
  simp only [writeKeyWord]
  interval_cases j
  · rw [Memory.read_write_other _ _ (by omega), Memory.read_write_other _ _ (by omega),
      Memory.read_write_other _ _ (by omega), Nat.add_zero, Memory.read_write_same _ _ hm]
  · rw [Memory.read_write_other _ _ (by omega), Memory.read_write_other _ _ (by omega), Memory.read_write_same _ _ h0]
  · rw [Memory.read_write_other _ _ (by omega), Memory.read_write_same _ _ h1]
  · rw [Memory.read_write_same _ _ h2]

/-! The key schedule. -/

@[simp] theorem Schedule.read_nil (i : Nat) : Schedule.read [] i = Subkey.zero := rfl

@[simp] theorem Schedule.wf_nil (n : Nat) : Schedule.wf n [] = true := rfl

theorem Schedule.write_wf {n i : Nat} {sk : Subkey} {ks : Schedule} (hi : i < n) (h : ks.wf n = true) :
    (ks.write i sk).wf n = true := sparseWrite_wf (Nat.zero_le i) hi h

theorem Schedule.read_write_same {n : Nat} (i : Nat) (sk : Subkey) {ks : Schedule} (h : ks.wf n = true) :
    (ks.write i sk).read i = sk := sparseRead_write_same i sk h

theorem Schedule.read_write_other {i j : Nat} (sk : Subkey) (ks : Schedule) (h : j ≠ i) :
    (ks.write i sk).read j = ks.read j := sparseRead_write_other sk ks h

theorem Schedule.read_of_ge {n i : Nat} {ks : Schedule} (h : n ≤ i) (hk : ks.wf n = true) : ks.read i = Subkey.zero :=
  sparseRead_of_ge h hk

/-- Where the old schedule lists no slot from `rounds` on, the replaced one is the new one's slots below `rounds`. -/
theorem Schedule.replaceBelow_wf {n rounds : Nat} {new old : Schedule} (hn : new.wf n = true) (ho : old.wf rounds = true) :
    (Schedule.replaceBelow rounds new old).wf rounds = true := by
  have hnil := filter_ge_eq_nil ho
  simp only [Schedule.replaceBelow, hnil, List.append_nil]
  exact sparseWf_filter_lt hn

/-- Below `rounds` the new schedule's slot, above it the old one's (R108). -/
theorem Schedule.replaceBelow_read {rounds : Nat} (new old : Schedule) (i : Nat) :
    (Schedule.replaceBelow rounds new old).read i = if i < rounds then new.read i else old.read i := by
  have hany : ((new.filter fun e => decide (e.1 < rounds)).any fun e => decide (e.1 = i)) = true → i < rounds := by
    intro h
    obtain ⟨e, he, hk⟩ := List.any_eq_true.mp h
    have := (List.mem_filter.mp he).2
    simp only [decide_eq_true_eq] at hk this
    omega
  have hn := sparseRead_filter (d := Subkey.zero) (fun k => decide (k < rounds)) new i
  have ho := sparseRead_filter (d := Subkey.zero) (fun k => decide (rounds ≤ k)) old i
  simp only [Schedule.read, Schedule.replaceBelow, sparseRead_append]
  by_cases hi : i < rounds
  · have hge : ¬ rounds ≤ i := by omega
    split
    · simpa [hi] using hn
    · rename_i hnone
      have hold : sparseRead Subkey.zero (old.filter fun e => decide (rounds ≤ e.1)) i = Subkey.zero := by
        simpa [hge] using ho
      have hnew : sparseRead Subkey.zero (new.filter fun e => decide (e.1 < rounds)) i = Subkey.zero := by
        have := sparseRead_append (d := Subkey.zero) (new.filter fun e => decide (e.1 < rounds)) [] i
        simpa [hnone] using this
      rw [hold]
      rw [hnew] at hn
      simpa [hi] using hn
  · have hge : rounds ≤ i := by omega
    have hnot : ¬ ((new.filter fun e => decide (e.1 < rounds)).any fun e => decide (e.1 = i)) = true :=
      fun h => hi (hany h)
    rw [if_neg hnot, if_neg hi]
    simpa [hge] using ho

end Sys2Proof.Machine
end

