-- ==== Sys2Proof/Laws/State.lean ====
section
/-! SUPPORT. One lemma per field per named update of State, true by rfl, so that no later proof unfolds a record update; and the
fields of the reset state. -/

namespace Sys2Proof.Machine

@[simp] theorem raise_eq (e : ErrCode) (s : State) : s.raise e = s.complete e := rfl
@[simp] theorem succeed_eq (s : State) : s.succeed = s.complete .ok := rfl

/-! `complete` -/

@[simp] theorem complete_cfg (e : ErrCode) (s : State) : (s.complete e).cfg = s.cfg := rfl
@[simp] theorem complete_done (e : ErrCode) (s : State) : (s.complete e).done = true := rfl
@[simp] theorem complete_ovr (e : ErrCode) (s : State) : (s.complete e).ovr = s.ovr := rfl
@[simp] theorem complete_keyed (e : ErrCode) (s : State) : (s.complete e).keyed = s.keyed := rfl
@[simp] theorem complete_err (e : ErrCode) (s : State) : (s.complete e).err = e := rfl
@[simp] theorem complete_ie (e : ErrCode) (s : State) : (s.complete e).ie = s.ie := rfl
@[simp] theorem complete_size (e : ErrCode) (s : State) : (s.complete e).size = s.size := rfl
@[simp] theorem complete_rounds (e : ErrCode) (s : State) : (s.complete e).rounds = s.rounds := rfl
@[simp] theorem complete_keylen (e : ErrCode) (s : State) : (s.complete e).keylen = s.keylen := rfl
@[simp] theorem complete_din0 (e : ErrCode) (s : State) : (s.complete e).din0 = s.din0 := rfl
@[simp] theorem complete_din1 (e : ErrCode) (s : State) : (s.complete e).din1 = s.din1 := rfl
@[simp] theorem complete_dout0 (e : ErrCode) (s : State) : (s.complete e).dout0 = s.dout0 := rfl
@[simp] theorem complete_dout1 (e : ErrCode) (s : State) : (s.complete e).dout1 = s.dout1 := rfl
@[simp] theorem complete_gfA (e : ErrCode) (s : State) : (s.complete e).gfA = s.gfA := rfl
@[simp] theorem complete_gfB (e : ErrCode) (s : State) : (s.complete e).gfB = s.gfB := rfl
@[simp] theorem complete_gfM (e : ErrCode) (s : State) : (s.complete e).gfM = s.gfM := rfl
@[simp] theorem complete_gfRes (e : ErrCode) (s : State) : (s.complete e).gfRes = s.gfRes := rfl
@[simp] theorem complete_permIn (e : ErrCode) (s : State) : (s.complete e).permIn = s.permIn := rfl
@[simp] theorem complete_permOut (e : ErrCode) (s : State) : (s.complete e).permOut = s.permOut := rfl
@[simp] theorem complete_sboxOut (e : ErrCode) (s : State) : (s.complete e).sboxOut = s.sboxOut := rfl
@[simp] theorem complete_fIn (e : ErrCode) (s : State) : (s.complete e).fIn = s.fIn := rfl
@[simp] theorem complete_sk0 (e : ErrCode) (s : State) : (s.complete e).sk0 = s.sk0 := rfl
@[simp] theorem complete_sk1 (e : ErrCode) (s : State) : (s.complete e).sk1 = s.sk1 := rfl
@[simp] theorem complete_sk2 (e : ErrCode) (s : State) : (s.complete e).sk2 = s.sk2 := rfl
@[simp] theorem complete_fOut (e : ErrCode) (s : State) : (s.complete e).fOut = s.fOut := rfl
@[simp] theorem complete_keybuf (e : ErrCode) (s : State) : (s.complete e).keybuf = s.keybuf := rfl
@[simp] theorem complete_ks (e : ErrCode) (s : State) : (s.complete e).ks = s.ks := rfl
@[simp] theorem complete_initialising (e : ErrCode) (s : State) : (s.complete e).initialising = s.initialising := rfl
@[simp] theorem complete_inflight (e : ErrCode) (s : State) : (s.complete e).inflight = false := rfl
@[simp] theorem complete_pcmd (e : ErrCode) (s : State) : (s.complete e).pcmd = s.pcmd := rfl
@[simp] theorem complete_rst (e : ErrCode) (s : State) : (s.complete e).rst = s.rst := rfl
@[simp] theorem complete_inputs (e : ErrCode) (s : State) : (s.complete e).inputs = s.inputs := rfl
@[simp] theorem complete_reply (e : ErrCode) (s : State) : (s.complete e).reply = s.reply := rfl
@[simp] theorem complete_draws (e : ErrCode) (s : State) : (s.complete e).draws = s.draws := rfl

/-! `accept` -/

@[simp] theorem accept_cfg (v : Word) (s : State) : (s.accept v).cfg = s.cfg := rfl
@[simp] theorem accept_done (v : Word) (s : State) : (s.accept v).done = false := rfl
@[simp] theorem accept_ovr (v : Word) (s : State) : (s.accept v).ovr = s.ovr := rfl
@[simp] theorem accept_keyed (v : Word) (s : State) : (s.accept v).keyed = s.keyed := rfl
@[simp] theorem accept_err (v : Word) (s : State) : (s.accept v).err = s.err := rfl
@[simp] theorem accept_ie (v : Word) (s : State) : (s.accept v).ie = s.ie := rfl
@[simp] theorem accept_size (v : Word) (s : State) : (s.accept v).size = s.size := rfl
@[simp] theorem accept_rounds (v : Word) (s : State) : (s.accept v).rounds = s.rounds := rfl
@[simp] theorem accept_keylen (v : Word) (s : State) : (s.accept v).keylen = s.keylen := rfl
@[simp] theorem accept_din0 (v : Word) (s : State) : (s.accept v).din0 = s.din0 := rfl
@[simp] theorem accept_din1 (v : Word) (s : State) : (s.accept v).din1 = s.din1 := rfl
@[simp] theorem accept_dout0 (v : Word) (s : State) : (s.accept v).dout0 = s.dout0 := rfl
@[simp] theorem accept_dout1 (v : Word) (s : State) : (s.accept v).dout1 = s.dout1 := rfl
@[simp] theorem accept_gfA (v : Word) (s : State) : (s.accept v).gfA = s.gfA := rfl
@[simp] theorem accept_gfB (v : Word) (s : State) : (s.accept v).gfB = s.gfB := rfl
@[simp] theorem accept_gfM (v : Word) (s : State) : (s.accept v).gfM = s.gfM := rfl
@[simp] theorem accept_gfRes (v : Word) (s : State) : (s.accept v).gfRes = s.gfRes := rfl
@[simp] theorem accept_permIn (v : Word) (s : State) : (s.accept v).permIn = s.permIn := rfl
@[simp] theorem accept_permOut (v : Word) (s : State) : (s.accept v).permOut = s.permOut := rfl
@[simp] theorem accept_sboxOut (v : Word) (s : State) : (s.accept v).sboxOut = s.sboxOut := rfl
@[simp] theorem accept_fIn (v : Word) (s : State) : (s.accept v).fIn = s.fIn := rfl
@[simp] theorem accept_sk0 (v : Word) (s : State) : (s.accept v).sk0 = s.sk0 := rfl
@[simp] theorem accept_sk1 (v : Word) (s : State) : (s.accept v).sk1 = s.sk1 := rfl
@[simp] theorem accept_sk2 (v : Word) (s : State) : (s.accept v).sk2 = s.sk2 := rfl
@[simp] theorem accept_fOut (v : Word) (s : State) : (s.accept v).fOut = s.fOut := rfl
@[simp] theorem accept_keybuf (v : Word) (s : State) : (s.accept v).keybuf = s.keybuf := rfl
@[simp] theorem accept_ks (v : Word) (s : State) : (s.accept v).ks = s.ks := rfl
@[simp] theorem accept_initialising (v : Word) (s : State) : (s.accept v).initialising = s.initialising := rfl
@[simp] theorem accept_inflight (v : Word) (s : State) : (s.accept v).inflight = true := rfl
@[simp] theorem accept_pcmd (v : Word) (s : State) : (s.accept v).pcmd = v := rfl
@[simp] theorem accept_rst (v : Word) (s : State) : (s.accept v).rst = s.rst := rfl
@[simp] theorem accept_inputs (v : Word) (s : State) : (s.accept v).inputs = s.inputs := rfl
@[simp] theorem accept_reply (v : Word) (s : State) : (s.accept v).reply = s.reply := rfl
@[simp] theorem accept_draws (v : Word) (s : State) : (s.accept v).draws = s.draws := rfl

/-! `setOvr` -/

@[simp] theorem setOvr_cfg (s : State) : (s.setOvr).cfg = s.cfg := rfl
@[simp] theorem setOvr_done (s : State) : (s.setOvr).done = s.done := rfl
@[simp] theorem setOvr_ovr (s : State) : (s.setOvr).ovr = true := rfl
@[simp] theorem setOvr_keyed (s : State) : (s.setOvr).keyed = s.keyed := rfl
@[simp] theorem setOvr_err (s : State) : (s.setOvr).err = s.err := rfl
@[simp] theorem setOvr_ie (s : State) : (s.setOvr).ie = s.ie := rfl
@[simp] theorem setOvr_size (s : State) : (s.setOvr).size = s.size := rfl
@[simp] theorem setOvr_rounds (s : State) : (s.setOvr).rounds = s.rounds := rfl
@[simp] theorem setOvr_keylen (s : State) : (s.setOvr).keylen = s.keylen := rfl
@[simp] theorem setOvr_din0 (s : State) : (s.setOvr).din0 = s.din0 := rfl
@[simp] theorem setOvr_din1 (s : State) : (s.setOvr).din1 = s.din1 := rfl
@[simp] theorem setOvr_dout0 (s : State) : (s.setOvr).dout0 = s.dout0 := rfl
@[simp] theorem setOvr_dout1 (s : State) : (s.setOvr).dout1 = s.dout1 := rfl
@[simp] theorem setOvr_gfA (s : State) : (s.setOvr).gfA = s.gfA := rfl
@[simp] theorem setOvr_gfB (s : State) : (s.setOvr).gfB = s.gfB := rfl
@[simp] theorem setOvr_gfM (s : State) : (s.setOvr).gfM = s.gfM := rfl
@[simp] theorem setOvr_gfRes (s : State) : (s.setOvr).gfRes = s.gfRes := rfl
@[simp] theorem setOvr_permIn (s : State) : (s.setOvr).permIn = s.permIn := rfl
@[simp] theorem setOvr_permOut (s : State) : (s.setOvr).permOut = s.permOut := rfl
@[simp] theorem setOvr_sboxOut (s : State) : (s.setOvr).sboxOut = s.sboxOut := rfl
@[simp] theorem setOvr_fIn (s : State) : (s.setOvr).fIn = s.fIn := rfl
@[simp] theorem setOvr_sk0 (s : State) : (s.setOvr).sk0 = s.sk0 := rfl
@[simp] theorem setOvr_sk1 (s : State) : (s.setOvr).sk1 = s.sk1 := rfl
@[simp] theorem setOvr_sk2 (s : State) : (s.setOvr).sk2 = s.sk2 := rfl
@[simp] theorem setOvr_fOut (s : State) : (s.setOvr).fOut = s.fOut := rfl
@[simp] theorem setOvr_keybuf (s : State) : (s.setOvr).keybuf = s.keybuf := rfl
@[simp] theorem setOvr_ks (s : State) : (s.setOvr).ks = s.ks := rfl
@[simp] theorem setOvr_initialising (s : State) : (s.setOvr).initialising = s.initialising := rfl
@[simp] theorem setOvr_inflight (s : State) : (s.setOvr).inflight = s.inflight := rfl
@[simp] theorem setOvr_pcmd (s : State) : (s.setOvr).pcmd = s.pcmd := rfl
@[simp] theorem setOvr_rst (s : State) : (s.setOvr).rst = s.rst := rfl
@[simp] theorem setOvr_inputs (s : State) : (s.setOvr).inputs = s.inputs := rfl
@[simp] theorem setOvr_reply (s : State) : (s.setOvr).reply = s.reply := rfl
@[simp] theorem setOvr_draws (s : State) : (s.setOvr).draws = s.draws := rfl

/-! `endInit` -/

@[simp] theorem endInit_cfg (s : State) : (s.endInit).cfg = s.cfg := rfl
@[simp] theorem endInit_done (s : State) : (s.endInit).done = s.done := rfl
@[simp] theorem endInit_ovr (s : State) : (s.endInit).ovr = s.ovr := rfl
@[simp] theorem endInit_keyed (s : State) : (s.endInit).keyed = s.keyed := rfl
@[simp] theorem endInit_err (s : State) : (s.endInit).err = s.err := rfl
@[simp] theorem endInit_ie (s : State) : (s.endInit).ie = s.ie := rfl
@[simp] theorem endInit_size (s : State) : (s.endInit).size = s.size := rfl
@[simp] theorem endInit_rounds (s : State) : (s.endInit).rounds = s.rounds := rfl
@[simp] theorem endInit_keylen (s : State) : (s.endInit).keylen = s.keylen := rfl
@[simp] theorem endInit_din0 (s : State) : (s.endInit).din0 = s.din0 := rfl
@[simp] theorem endInit_din1 (s : State) : (s.endInit).din1 = s.din1 := rfl
@[simp] theorem endInit_dout0 (s : State) : (s.endInit).dout0 = s.dout0 := rfl
@[simp] theorem endInit_dout1 (s : State) : (s.endInit).dout1 = s.dout1 := rfl
@[simp] theorem endInit_gfA (s : State) : (s.endInit).gfA = s.gfA := rfl
@[simp] theorem endInit_gfB (s : State) : (s.endInit).gfB = s.gfB := rfl
@[simp] theorem endInit_gfM (s : State) : (s.endInit).gfM = s.gfM := rfl
@[simp] theorem endInit_gfRes (s : State) : (s.endInit).gfRes = s.gfRes := rfl
@[simp] theorem endInit_permIn (s : State) : (s.endInit).permIn = s.permIn := rfl
@[simp] theorem endInit_permOut (s : State) : (s.endInit).permOut = s.permOut := rfl
@[simp] theorem endInit_sboxOut (s : State) : (s.endInit).sboxOut = s.sboxOut := rfl
@[simp] theorem endInit_fIn (s : State) : (s.endInit).fIn = s.fIn := rfl
@[simp] theorem endInit_sk0 (s : State) : (s.endInit).sk0 = s.sk0 := rfl
@[simp] theorem endInit_sk1 (s : State) : (s.endInit).sk1 = s.sk1 := rfl
@[simp] theorem endInit_sk2 (s : State) : (s.endInit).sk2 = s.sk2 := rfl
@[simp] theorem endInit_fOut (s : State) : (s.endInit).fOut = s.fOut := rfl
@[simp] theorem endInit_keybuf (s : State) : (s.endInit).keybuf = s.keybuf := rfl
@[simp] theorem endInit_ks (s : State) : (s.endInit).ks = s.ks := rfl
@[simp] theorem endInit_initialising (s : State) : (s.endInit).initialising = false := rfl
@[simp] theorem endInit_inflight (s : State) : (s.endInit).inflight = s.inflight := rfl
@[simp] theorem endInit_pcmd (s : State) : (s.endInit).pcmd = s.pcmd := rfl
@[simp] theorem endInit_rst (s : State) : (s.endInit).rst = s.rst := rfl
@[simp] theorem endInit_inputs (s : State) : (s.endInit).inputs = s.inputs := rfl
@[simp] theorem endInit_reply (s : State) : (s.endInit).reply = s.reply := rfl
@[simp] theorem endInit_draws (s : State) : (s.endInit).draws = s.draws := rfl

/-! `writeStatus` -/

@[simp] theorem writeStatus_cfg (v : Word) (s : State) : (s.writeStatus v).cfg = s.cfg := rfl
@[simp] theorem writeStatus_done (v : Word) (s : State) : (s.writeStatus v).done = (s.done && !v.getLsbD 1) := rfl
@[simp] theorem writeStatus_ovr (v : Word) (s : State) : (s.writeStatus v).ovr = (s.ovr && !v.getLsbD 2) := rfl
@[simp] theorem writeStatus_keyed (v : Word) (s : State) : (s.writeStatus v).keyed = s.keyed := rfl
@[simp] theorem writeStatus_err (v : Word) (s : State) : (s.writeStatus v).err = s.err := rfl
@[simp] theorem writeStatus_ie (v : Word) (s : State) : (s.writeStatus v).ie = s.ie := rfl
@[simp] theorem writeStatus_size (v : Word) (s : State) : (s.writeStatus v).size = s.size := rfl
@[simp] theorem writeStatus_rounds (v : Word) (s : State) : (s.writeStatus v).rounds = s.rounds := rfl
@[simp] theorem writeStatus_keylen (v : Word) (s : State) : (s.writeStatus v).keylen = s.keylen := rfl
@[simp] theorem writeStatus_din0 (v : Word) (s : State) : (s.writeStatus v).din0 = s.din0 := rfl
@[simp] theorem writeStatus_din1 (v : Word) (s : State) : (s.writeStatus v).din1 = s.din1 := rfl
@[simp] theorem writeStatus_dout0 (v : Word) (s : State) : (s.writeStatus v).dout0 = s.dout0 := rfl
@[simp] theorem writeStatus_dout1 (v : Word) (s : State) : (s.writeStatus v).dout1 = s.dout1 := rfl
@[simp] theorem writeStatus_gfA (v : Word) (s : State) : (s.writeStatus v).gfA = s.gfA := rfl
@[simp] theorem writeStatus_gfB (v : Word) (s : State) : (s.writeStatus v).gfB = s.gfB := rfl
@[simp] theorem writeStatus_gfM (v : Word) (s : State) : (s.writeStatus v).gfM = s.gfM := rfl
@[simp] theorem writeStatus_gfRes (v : Word) (s : State) : (s.writeStatus v).gfRes = s.gfRes := rfl
@[simp] theorem writeStatus_permIn (v : Word) (s : State) : (s.writeStatus v).permIn = s.permIn := rfl
@[simp] theorem writeStatus_permOut (v : Word) (s : State) : (s.writeStatus v).permOut = s.permOut := rfl
@[simp] theorem writeStatus_sboxOut (v : Word) (s : State) : (s.writeStatus v).sboxOut = s.sboxOut := rfl
@[simp] theorem writeStatus_fIn (v : Word) (s : State) : (s.writeStatus v).fIn = s.fIn := rfl
@[simp] theorem writeStatus_sk0 (v : Word) (s : State) : (s.writeStatus v).sk0 = s.sk0 := rfl
@[simp] theorem writeStatus_sk1 (v : Word) (s : State) : (s.writeStatus v).sk1 = s.sk1 := rfl
@[simp] theorem writeStatus_sk2 (v : Word) (s : State) : (s.writeStatus v).sk2 = s.sk2 := rfl
@[simp] theorem writeStatus_fOut (v : Word) (s : State) : (s.writeStatus v).fOut = s.fOut := rfl
@[simp] theorem writeStatus_keybuf (v : Word) (s : State) : (s.writeStatus v).keybuf = s.keybuf := rfl
@[simp] theorem writeStatus_ks (v : Word) (s : State) : (s.writeStatus v).ks = s.ks := rfl
@[simp] theorem writeStatus_initialising (v : Word) (s : State) : (s.writeStatus v).initialising = s.initialising := rfl
@[simp] theorem writeStatus_inflight (v : Word) (s : State) : (s.writeStatus v).inflight = s.inflight := rfl
@[simp] theorem writeStatus_pcmd (v : Word) (s : State) : (s.writeStatus v).pcmd = s.pcmd := rfl
@[simp] theorem writeStatus_rst (v : Word) (s : State) : (s.writeStatus v).rst = s.rst := rfl
@[simp] theorem writeStatus_inputs (v : Word) (s : State) : (s.writeStatus v).inputs = s.inputs := rfl
@[simp] theorem writeStatus_reply (v : Word) (s : State) : (s.writeStatus v).reply = s.reply := rfl
@[simp] theorem writeStatus_draws (v : Word) (s : State) : (s.writeStatus v).draws = s.draws := rfl

/-! `writeCtrl` -/

@[simp] theorem writeCtrl_cfg (v : Word) (s : State) : (s.writeCtrl v).cfg = s.cfg := rfl
@[simp] theorem writeCtrl_done (v : Word) (s : State) : (s.writeCtrl v).done = s.done := rfl
@[simp] theorem writeCtrl_ovr (v : Word) (s : State) : (s.writeCtrl v).ovr = s.ovr := rfl
@[simp] theorem writeCtrl_keyed (v : Word) (s : State) : (s.writeCtrl v).keyed = s.keyed := rfl
@[simp] theorem writeCtrl_err (v : Word) (s : State) : (s.writeCtrl v).err = s.err := rfl
@[simp] theorem writeCtrl_ie (v : Word) (s : State) : (s.writeCtrl v).ie = v.getLsbD 0 := rfl
@[simp] theorem writeCtrl_size (v : Word) (s : State) : (s.writeCtrl v).size = s.size := rfl
@[simp] theorem writeCtrl_rounds (v : Word) (s : State) : (s.writeCtrl v).rounds = s.rounds := rfl
@[simp] theorem writeCtrl_keylen (v : Word) (s : State) : (s.writeCtrl v).keylen = s.keylen := rfl
@[simp] theorem writeCtrl_din0 (v : Word) (s : State) : (s.writeCtrl v).din0 = s.din0 := rfl
@[simp] theorem writeCtrl_din1 (v : Word) (s : State) : (s.writeCtrl v).din1 = s.din1 := rfl
@[simp] theorem writeCtrl_dout0 (v : Word) (s : State) : (s.writeCtrl v).dout0 = s.dout0 := rfl
@[simp] theorem writeCtrl_dout1 (v : Word) (s : State) : (s.writeCtrl v).dout1 = s.dout1 := rfl
@[simp] theorem writeCtrl_gfA (v : Word) (s : State) : (s.writeCtrl v).gfA = s.gfA := rfl
@[simp] theorem writeCtrl_gfB (v : Word) (s : State) : (s.writeCtrl v).gfB = s.gfB := rfl
@[simp] theorem writeCtrl_gfM (v : Word) (s : State) : (s.writeCtrl v).gfM = s.gfM := rfl
@[simp] theorem writeCtrl_gfRes (v : Word) (s : State) : (s.writeCtrl v).gfRes = s.gfRes := rfl
@[simp] theorem writeCtrl_permIn (v : Word) (s : State) : (s.writeCtrl v).permIn = s.permIn := rfl
@[simp] theorem writeCtrl_permOut (v : Word) (s : State) : (s.writeCtrl v).permOut = s.permOut := rfl
@[simp] theorem writeCtrl_sboxOut (v : Word) (s : State) : (s.writeCtrl v).sboxOut = s.sboxOut := rfl
@[simp] theorem writeCtrl_fIn (v : Word) (s : State) : (s.writeCtrl v).fIn = s.fIn := rfl
@[simp] theorem writeCtrl_sk0 (v : Word) (s : State) : (s.writeCtrl v).sk0 = s.sk0 := rfl
@[simp] theorem writeCtrl_sk1 (v : Word) (s : State) : (s.writeCtrl v).sk1 = s.sk1 := rfl
@[simp] theorem writeCtrl_sk2 (v : Word) (s : State) : (s.writeCtrl v).sk2 = s.sk2 := rfl
@[simp] theorem writeCtrl_fOut (v : Word) (s : State) : (s.writeCtrl v).fOut = s.fOut := rfl
@[simp] theorem writeCtrl_keybuf (v : Word) (s : State) : (s.writeCtrl v).keybuf = s.keybuf := rfl
@[simp] theorem writeCtrl_ks (v : Word) (s : State) : (s.writeCtrl v).ks = s.ks := rfl
@[simp] theorem writeCtrl_initialising (v : Word) (s : State) : (s.writeCtrl v).initialising = s.initialising := rfl
@[simp] theorem writeCtrl_inflight (v : Word) (s : State) : (s.writeCtrl v).inflight = s.inflight := rfl
@[simp] theorem writeCtrl_pcmd (v : Word) (s : State) : (s.writeCtrl v).pcmd = s.pcmd := rfl
@[simp] theorem writeCtrl_rst (v : Word) (s : State) : (s.writeCtrl v).rst = s.rst := rfl
@[simp] theorem writeCtrl_inputs (v : Word) (s : State) : (s.writeCtrl v).inputs = s.inputs := rfl
@[simp] theorem writeCtrl_reply (v : Word) (s : State) : (s.writeCtrl v).reply = s.reply := rfl
@[simp] theorem writeCtrl_draws (v : Word) (s : State) : (s.writeCtrl v).draws = s.draws := rfl

/-! `configure` -/

@[simp] theorem configure_cfg (c : LevelConfig) (s : State) : (s.configure c).cfg = s.cfg := rfl
@[simp] theorem configure_done (c : LevelConfig) (s : State) : (s.configure c).done = s.done := rfl
@[simp] theorem configure_ovr (c : LevelConfig) (s : State) : (s.configure c).ovr = s.ovr := rfl
@[simp] theorem configure_keyed (c : LevelConfig) (s : State) : (s.configure c).keyed = false := rfl
@[simp] theorem configure_err (c : LevelConfig) (s : State) : (s.configure c).err = s.err := rfl
@[simp] theorem configure_ie (c : LevelConfig) (s : State) : (s.configure c).ie = s.ie := rfl
@[simp] theorem configure_size (c : LevelConfig) (s : State) : (s.configure c).size = BitVec.ofNat 32 c.size := rfl
@[simp] theorem configure_rounds (c : LevelConfig) (s : State) : (s.configure c).rounds = BitVec.ofNat 32 c.rounds := rfl
@[simp] theorem configure_keylen (c : LevelConfig) (s : State) : (s.configure c).keylen = BitVec.ofNat 32 c.keylen := rfl
@[simp] theorem configure_din0 (c : LevelConfig) (s : State) : (s.configure c).din0 = s.din0 := rfl
@[simp] theorem configure_din1 (c : LevelConfig) (s : State) : (s.configure c).din1 = s.din1 := rfl
@[simp] theorem configure_dout0 (c : LevelConfig) (s : State) : (s.configure c).dout0 = s.dout0 := rfl
@[simp] theorem configure_dout1 (c : LevelConfig) (s : State) : (s.configure c).dout1 = s.dout1 := rfl
@[simp] theorem configure_gfA (c : LevelConfig) (s : State) : (s.configure c).gfA = s.gfA := rfl
@[simp] theorem configure_gfB (c : LevelConfig) (s : State) : (s.configure c).gfB = s.gfB := rfl
@[simp] theorem configure_gfM (c : LevelConfig) (s : State) : (s.configure c).gfM = s.gfM := rfl
@[simp] theorem configure_gfRes (c : LevelConfig) (s : State) : (s.configure c).gfRes = s.gfRes := rfl
@[simp] theorem configure_permIn (c : LevelConfig) (s : State) : (s.configure c).permIn = s.permIn := rfl
@[simp] theorem configure_permOut (c : LevelConfig) (s : State) : (s.configure c).permOut = s.permOut := rfl
@[simp] theorem configure_sboxOut (c : LevelConfig) (s : State) : (s.configure c).sboxOut = s.sboxOut := rfl
@[simp] theorem configure_fIn (c : LevelConfig) (s : State) : (s.configure c).fIn = s.fIn := rfl
@[simp] theorem configure_sk0 (c : LevelConfig) (s : State) : (s.configure c).sk0 = s.sk0 := rfl
@[simp] theorem configure_sk1 (c : LevelConfig) (s : State) : (s.configure c).sk1 = s.sk1 := rfl
@[simp] theorem configure_sk2 (c : LevelConfig) (s : State) : (s.configure c).sk2 = s.sk2 := rfl
@[simp] theorem configure_fOut (c : LevelConfig) (s : State) : (s.configure c).fOut = s.fOut := rfl
@[simp] theorem configure_keybuf (c : LevelConfig) (s : State) : (s.configure c).keybuf = s.keybuf := rfl
@[simp] theorem configure_ks (c : LevelConfig) (s : State) : (s.configure c).ks = [] := rfl
@[simp] theorem configure_initialising (c : LevelConfig) (s : State) : (s.configure c).initialising = s.initialising := rfl
@[simp] theorem configure_inflight (c : LevelConfig) (s : State) : (s.configure c).inflight = s.inflight := rfl
@[simp] theorem configure_pcmd (c : LevelConfig) (s : State) : (s.configure c).pcmd = s.pcmd := rfl
@[simp] theorem configure_rst (c : LevelConfig) (s : State) : (s.configure c).rst = s.rst := rfl
@[simp] theorem configure_inputs (c : LevelConfig) (s : State) : (s.configure c).inputs = s.inputs := rfl
@[simp] theorem configure_reply (c : LevelConfig) (s : State) : (s.configure c).reply = s.reply := rfl
@[simp] theorem configure_draws (c : LevelConfig) (s : State) : (s.configure c).draws = s.draws := rfl

/-! `setOutput` -/

@[simp] theorem setOutput_cfg (o : Word × Word) (s : State) : (s.setOutput o).cfg = s.cfg := rfl
@[simp] theorem setOutput_done (o : Word × Word) (s : State) : (s.setOutput o).done = s.done := rfl
@[simp] theorem setOutput_ovr (o : Word × Word) (s : State) : (s.setOutput o).ovr = s.ovr := rfl
@[simp] theorem setOutput_keyed (o : Word × Word) (s : State) : (s.setOutput o).keyed = s.keyed := rfl
@[simp] theorem setOutput_err (o : Word × Word) (s : State) : (s.setOutput o).err = s.err := rfl
@[simp] theorem setOutput_ie (o : Word × Word) (s : State) : (s.setOutput o).ie = s.ie := rfl
@[simp] theorem setOutput_size (o : Word × Word) (s : State) : (s.setOutput o).size = s.size := rfl
@[simp] theorem setOutput_rounds (o : Word × Word) (s : State) : (s.setOutput o).rounds = s.rounds := rfl
@[simp] theorem setOutput_keylen (o : Word × Word) (s : State) : (s.setOutput o).keylen = s.keylen := rfl
@[simp] theorem setOutput_din0 (o : Word × Word) (s : State) : (s.setOutput o).din0 = s.din0 := rfl
@[simp] theorem setOutput_din1 (o : Word × Word) (s : State) : (s.setOutput o).din1 = s.din1 := rfl
@[simp] theorem setOutput_dout0 (o : Word × Word) (s : State) : (s.setOutput o).dout0 = o.1 := rfl
@[simp] theorem setOutput_dout1 (o : Word × Word) (s : State) : (s.setOutput o).dout1 = o.2 := rfl
@[simp] theorem setOutput_gfA (o : Word × Word) (s : State) : (s.setOutput o).gfA = s.gfA := rfl
@[simp] theorem setOutput_gfB (o : Word × Word) (s : State) : (s.setOutput o).gfB = s.gfB := rfl
@[simp] theorem setOutput_gfM (o : Word × Word) (s : State) : (s.setOutput o).gfM = s.gfM := rfl
@[simp] theorem setOutput_gfRes (o : Word × Word) (s : State) : (s.setOutput o).gfRes = s.gfRes := rfl
@[simp] theorem setOutput_permIn (o : Word × Word) (s : State) : (s.setOutput o).permIn = s.permIn := rfl
@[simp] theorem setOutput_permOut (o : Word × Word) (s : State) : (s.setOutput o).permOut = s.permOut := rfl
@[simp] theorem setOutput_sboxOut (o : Word × Word) (s : State) : (s.setOutput o).sboxOut = s.sboxOut := rfl
@[simp] theorem setOutput_fIn (o : Word × Word) (s : State) : (s.setOutput o).fIn = s.fIn := rfl
@[simp] theorem setOutput_sk0 (o : Word × Word) (s : State) : (s.setOutput o).sk0 = s.sk0 := rfl
@[simp] theorem setOutput_sk1 (o : Word × Word) (s : State) : (s.setOutput o).sk1 = s.sk1 := rfl
@[simp] theorem setOutput_sk2 (o : Word × Word) (s : State) : (s.setOutput o).sk2 = s.sk2 := rfl
@[simp] theorem setOutput_fOut (o : Word × Word) (s : State) : (s.setOutput o).fOut = s.fOut := rfl
@[simp] theorem setOutput_keybuf (o : Word × Word) (s : State) : (s.setOutput o).keybuf = s.keybuf := rfl
@[simp] theorem setOutput_ks (o : Word × Word) (s : State) : (s.setOutput o).ks = s.ks := rfl
@[simp] theorem setOutput_initialising (o : Word × Word) (s : State) : (s.setOutput o).initialising = s.initialising := rfl
@[simp] theorem setOutput_inflight (o : Word × Word) (s : State) : (s.setOutput o).inflight = s.inflight := rfl
@[simp] theorem setOutput_pcmd (o : Word × Word) (s : State) : (s.setOutput o).pcmd = s.pcmd := rfl
@[simp] theorem setOutput_rst (o : Word × Word) (s : State) : (s.setOutput o).rst = s.rst := rfl
@[simp] theorem setOutput_inputs (o : Word × Word) (s : State) : (s.setOutput o).inputs = s.inputs := rfl
@[simp] theorem setOutput_reply (o : Word × Word) (s : State) : (s.setOutput o).reply = s.reply := rfl
@[simp] theorem setOutput_draws (o : Word × Word) (s : State) : (s.setOutput o).draws = s.draws := rfl

end Sys2Proof.Machine
end

