-- ==== Sys2Proof/Laws/Registers.lean ====
section
/-! SUPPORT. What a register read and a register write can do, said once each; bytes and words. -/

namespace Sys2Proof.Machine

/-- Everything a read can do: the current value and no change, or a free value and one draw (R150). -/
theorem readReg_cases (r : Reg) (s : State) :
    ((s.busy = false ∨ r.unspecifiedWhileBusy = false) ∧ s.readReg r = (s.regValue r, s)) ∨
    (s.busy = true ∧ r.unspecifiedWhileBusy = true ∧
      s.readReg r = (Config.freeRead s.draws &&& r.meaningful, { s with draws := s.draws + 1 })) := by
  simp only [State.readReg]
  cases s.busy <;> cases r.unspecifiedWhileBusy <;> simp

/-- Everything a write can do: it is blocked and sets OVR (R149), or it is performed. -/
theorem writeReg_cases (r : Reg) (v : Word) (s : State) :
    (s.busy = true ∧ r.blockedWhileBusy = true ∧ s.writeReg r v = s.setOvr) ∨
    ((s.busy = false ∨ r.blockedWhileBusy = false) ∧ s.writeReg r v = s.performWrite r v) := by
  simp only [State.writeReg]
  cases s.busy <;> cases r.blockedWhileBusy <;> simp

/-- A read-only register or a reserved offset ignores a write (R17, R43). -/
theorem performWrite_readOnly {r : Reg} (v : Word) (s : State)
    (h : r ∈ [Reg.size, .rounds, .keylen, .nmax, .id, .dout0, .dout1, .gfRes, .permOut, .sboxOut, .fOut, .reserved]) :
    s.performWrite r v = s := by
  simp only [List.mem_cons, List.not_mem_nil, or_false] at h
  rcases h with rfl | rfl | rfl | rfl | rfl | rfl | rfl | rfl | rfl | rfl | rfl | rfl <;> rfl

/-- No write touches the parameters, the inputs, the reset line, the initialisation or the draws. -/
theorem performWrite_frame (r : Reg) (v : Word) (s : State) :
    (s.performWrite r v).cfg = s.cfg ∧ (s.performWrite r v).inputs = s.inputs ∧ (s.performWrite r v).rst = s.rst ∧
      (s.performWrite r v).initialising = s.initialising ∧ (s.performWrite r v).draws = s.draws := by
  cases r <;> exact ⟨rfl, rfl, rfl, rfl, rfl⟩

/-- The word made of its own four bytes (R57). -/
theorem wordOf_byteOf (v : Word) : wordOf (byteOf v 0) (byteOf v 1) (byteOf v 2) (byteOf v 3) = v := by
  apply BitVec.eq_of_getLsbD_eq
  intro i hi
  simp only [wordOf, byteOf, BitVec.getLsbD_append, BitVec.getLsbD_extractLsb']
  have : i < 8 ∨ (8 ≤ i ∧ i < 16) ∨ (16 ≤ i ∧ i < 24) ∨ 24 ≤ i := by omega
  rcases this with h | h | h | h
  · simp [h]
  · have : ¬ i < 8 := by omega
    have h8 : i - 8 < 8 := by omega
    simp [this, h8, show 8 + (i - 8) = i by omega]
  · have a : ¬ i < 8 := by omega
    have b : ¬ i - 8 < 8 := by omega
    have c : i - 8 - 8 < 8 := by omega
    simp [a, b, c, show 16 + (i - 8 - 8) = i by omega]
  · have a : ¬ i < 8 := by omega
    have b : ¬ i - 8 < 8 := by omega
    have c : ¬ i - 8 - 8 < 8 := by omega
    have d : i - 8 - 8 - 8 < 8 := by omega
    simp [a, b, c, d, show 24 + (i - 8 - 8 - 8) = i by omega]

end Sys2Proof.Machine
end

