-- ==== Sys2Proof/Laws/Bus.lean ====
section
/-! SUPPORT. The slave port: the registers' offsets lie in the aperture and decode to them, and what one access can do. -/

namespace Sys2Proof.Machine

theorem keybufBytes_ge (p : Params) : 16 ≤ p.keybufBytes := le_max_left _ _

theorem keybufBytes_dvd (p : Params) : 4 ∣ p.keybufBytes := by
  simp only [Params.keybufBytes, Params.nMax]; omega

theorem apertureBytes_ge (p : Params) : 0x100 + p.keybufBytes ≤ p.apertureBytes := by
  simp only [Params.apertureBytes]; omega

theorem base_aligned (p : Params) : p.base % 4096 = 0 := by simp [Params.base]

/-- KEYBUF has a word `w` (R44). -/
def Reg.exists (p : Params) : Reg → Prop
  | .keybuf w => 4 * w < p.keybufBytes
  | _ => True

/-- Every register's offset decodes to it (R17). -/
theorem regAt_offset (p : Params) (r : Reg) (h : r.exists p) : regAt p r.offset = r := by
  cases r with
  | keybuf w =>
    have hw : 4 * w < p.keybufBytes := h
    have h1 : ¬ 0x100 + 4 * w < 0x060 := by omega
    have h2 : 0x100 + 4 * w < 0x100 + p.keybufBytes := by omega
    have h3 : (0x100 + 4 * w - 0x100) / 4 = w := by omega
    simp only [Reg.offset, regAt, h1, if_false, h3]
    rw [if_pos ⟨by omega, h2⟩]
  | reserved =>
    show regAt p 0x060 = .reserved
    simp [regAt]
  | _ => rfl

/-- A word of KEYBUF that an address decodes to is one the buffer has. -/
theorem regAt_keybuf {p : Params} {off w : Nat} (h : regAt p off = .keybuf w) : 4 * w + 3 < p.keybufBytes := by
  have hd := keybufBytes_dvd p
  simp only [regAt] at h
  split at h
  · rename_i hlt
    have : off / 4 < 24 := by omega
    interval_cases off / 4 <;> simp [lowRegs] at h
  · split at h
    · rename_i hin
      simp only [Reg.keybuf.injEq] at h
      omega
    · simp at h

/-- Everything one access can do: no step in reset, none outside the aperture, the error response, or a transfer. -/
theorem serveAccess_cases (a : Access) (s : State) :
    (s.rst = true ∧ serveAccess a s = .fault .accessDuringReset) ∨
    (s.rst = false ∧ inAperture s.cfg a.addr = false ∧ serveAccess a s = .fault .outsideAperture) ∨
    (s.rst = false ∧ inAperture s.cfg a.addr = true ∧ a.served = false ∧
      serveAccess a s = .next { s with reply := .busError }) ∨
    (s.rst = false ∧ inAperture s.cfg a.addr = true ∧ a.served = true ∧
      serveAccess a s = .next (s.transfer (a.addr - s.cfg.base) a.kind)) := by
  simp only [serveAccess]
  cases s.rst <;> cases inAperture s.cfg a.addr <;> cases a.served <;> simp

/-- The driver's access to a register is served: it is the transfer at that register's offset (R77). -/
theorem serveAccess_reg (r : Reg) (k : AccessKind) (s : State) (hr : s.rst = false) (h : r.exists s.cfg) :
    serveAccess ⟨s.cfg.base + r.offset, 4, k⟩ s = .next (s.transfer r.offset k) := by
  have hoff : r.offset % 4 = 0 ∧ r.offset < 0x100 + s.cfg.keybufBytes := by
    cases r with
    | keybuf w =>
      have hw : 4 * w < s.cfg.keybufBytes := h
      simp only [Reg.offset]; omega
    | _ => exact ⟨rfl, by simp only [Reg.offset]; omega⟩
  have ha := apertureBytes_ge s.cfg
  have hin : inAperture s.cfg (s.cfg.base + r.offset) = true := by
    simp only [inAperture, decide_eq_true_eq]; omega
  have hb := base_aligned s.cfg
  have hs : (⟨s.cfg.base + r.offset, 4, k⟩ : Access).served = true := by
    simp only [Access.served, decide_eq_true_eq]
    exact ⟨trivial, by omega⟩
  simp only [serveAccess, hr, hin, hs, Nat.add_sub_cancel_left]
  rfl

/-- A read leaves everything but the port's response and the count of free values. -/
theorem transfer_read_frame (off : Nat) (s : State) :
    s.transfer off .read = { s with reply := (s.transfer off .read).reply, draws := (s.transfer off .read).draws } := by
  simp only [State.transfer]
  rcases readReg_cases (regAt s.cfg off) s with ⟨-, h⟩ | ⟨-, -, h⟩ <;> rw [h]

/-- A write is the register's own, with the acknowledge as response. -/
theorem transfer_write (off : Nat) (v : Word) (s : State) :
    s.transfer off (.write v) = { s.writeReg (regAt s.cfg off) v with reply := .written } := rfl

/-- A transfer touches neither the inputs, the reset line, the parameters nor the initialisation. -/
theorem transfer_frame (off : Nat) (k : AccessKind) (s : State) :
    (s.transfer off k).inputs = s.inputs ∧ (s.transfer off k).rst = s.rst ∧ (s.transfer off k).cfg = s.cfg ∧
      (s.transfer off k).initialising = s.initialising := by
  cases k with
  | read => rw [transfer_read_frame]; exact ⟨rfl, rfl, rfl, rfl⟩
  | write v =>
    rw [transfer_write]
    rcases writeReg_cases (regAt s.cfg off) v s with ⟨-, -, h⟩ | ⟨-, h⟩ <;> rw [h]
    · exact ⟨rfl, rfl, rfl, rfl⟩
    · obtain ⟨h1, h2, h3, h4, -⟩ := performWrite_frame (regAt s.cfg off) v s
      exact ⟨h2, h3, h1, h4⟩

end Sys2Proof.Machine
end

