-- ==== Sys2Proof/Laws/Decode.lean ====
section
/-! SUPPORT. The fields of a command word (30_encoding R67). -/

namespace Sys2Proof

@[simp] theorem opcOf_cmdWord (arg : BitVec 16) (opc : BitVec 4) : opcOf (cmdWord arg opc) = opc := by
  apply BitVec.eq_of_getLsbD_eq
  intro i hi
  simp only [opcOf, cmdWord, BitVec.getLsbD_append, BitVec.getLsbD_extractLsb', hi, decide_true, Bool.true_and]
  rw [if_pos (by omega), Nat.zero_add]

@[simp] theorem argOf_cmdWord (arg : BitVec 16) (opc : BitVec 4) : argOf (cmdWord arg opc) = arg := by
  apply BitVec.eq_of_getLsbD_eq
  intro i hi
  simp only [argOf, cmdWord, BitVec.getLsbD_append, BitVec.getLsbD_extractLsb', hi, decide_true, Bool.true_and]
  rw [if_neg (by omega), if_neg (by omega), if_pos (by omega)]
  congr 1
  omega

@[simp] theorem rsvHigh_cmdWord (arg : BitVec 16) (opc : BitVec 4) : (cmdWord arg opc).extractLsb' 24 8 = 0#8 := by
  apply BitVec.eq_of_getLsbD_eq
  intro i hi
  simp only [cmdWord, BitVec.getLsbD_append, BitVec.getLsbD_extractLsb', hi, decide_true, Bool.true_and]
  rw [if_neg (by omega), if_neg (by omega), if_neg (by omega)]
  simp

@[simp] theorem rsvLow_cmdWord (arg : BitVec 16) (opc : BitVec 4) : (cmdWord arg opc).extractLsb' 4 4 = 0#4 := by
  apply BitVec.eq_of_getLsbD_eq
  intro i hi
  simp only [cmdWord, BitVec.getLsbD_append, BitVec.getLsbD_extractLsb', hi, decide_true, Bool.true_and]
  rw [if_neg (by omega), if_pos (by omega)]
  simp

/-- A word with both reserved fields 0 decodes by its opcode and ARG alone. -/
theorem decode_cmdWord (arg : BitVec 16) (opc : BitVec 4) : decode (cmdWord arg opc) = decodeOp opc arg := by
  simp [decode]

/-- A word whose reserved fields are 0 is the one of its own ARG and OPC. -/
theorem eq_cmdWord {w : Word} (hhi : w.extractLsb' 24 8 = 0#8) (hlo : w.extractLsb' 4 4 = 0#4) :
    w = cmdWord (argOf w) (opcOf w) := by
  have hi8 : ∀ j, j < 8 → w.getLsbD (24 + j) = false := fun j hj => by
    simpa [BitVec.getLsbD_extractLsb', hj] using congrArg (·.getLsbD j) hhi
  have lo4 : ∀ j, j < 4 → w.getLsbD (4 + j) = false := fun j hj => by
    simpa [BitVec.getLsbD_extractLsb', hj] using congrArg (·.getLsbD j) hlo
  apply BitVec.eq_of_getLsbD_eq
  intro k hk
  simp only [cmdWord, argOf, opcOf, BitVec.getLsbD_append, BitVec.getLsbD_extractLsb']
  have : k < 4 ∨ (4 ≤ k ∧ k < 8) ∨ (8 ≤ k ∧ k < 24) ∨ 24 ≤ k := by omega
  rcases this with h | h | h | h
  · simp [h]
  · have := lo4 (k - 4) (by omega)
    rw [show 4 + (k - 4) = k by omega] at this
    simp [show ¬ k < 4 by omega, show k - 4 < 4 by omega, this]
  · simp [show ¬ k < 4 by omega, show ¬ k - 4 < 4 by omega, show k - 4 - 4 < 16 by omega,
      show 8 + (k - 4 - 4) = k by omega]
  · have := hi8 (k - 24) (by omega)
    rw [show 24 + (k - 24) = k by omega] at this
    simp [show ¬ k < 4 by omega, show ¬ k - 4 < 4 by omega, show ¬ k - 4 - 4 < 16 by omega, this]

end Sys2Proof
end

