-- ==== Sys2Proof/Laws/KeySchedule.lean ====
section
/-! SUPPORT. The key schedule builder keeps KS in canonical form; the memories of the reset state have it. -/

namespace Sys2Proof.Machine

/-- A pass writes the eight slots from `n` on, and keeps the form (R104). -/
theorem schedulePass_wf {m : Nat} (kb : KeyRegs) (n l : Nat) {ks : Schedule} (hn : n + 8 ≤ m) (h : ks.wf m = true) :
    (schedulePass kb n l ks).2.wf m = true := by
  suffices ∀ (xs : List Nat) (st : KeyRegs × Schedule), (∀ x ∈ xs, x < 8) → st.2.wf m = true →
      (xs.foldl (fun st i =>
        let (sk, kb) := buildSubkey (keyrot (i + l)) st.1
        (kb, st.2.write (n + i) sk)) st).2.wf m = true from this (List.range 8) (kb, ks) (by simp) h
  intro xs
  induction xs with
  | nil => exact fun _ _ h => h
  | cons x xs ih =>
    intro st hx h
    have hx8 := hx x List.mem_cons_self
    exact ih _ (fun y hy => hx y (List.mem_cons_of_mem x hy)) (Schedule.write_wf (by omega) h)

/-- The thin key set keeps the form (R105). -/
theorem setKeyThin_wf {m : Nat} (key : Nat → Byte) {ks : Schedule} (hm : 8 ≤ m) (h : ks.wf m = true) :
    (setKeyThin key ks).wf m = true := schedulePass_wf (pack key 0) 0 0 hm h

/-- A key block's two passes keep the form (R106). -/
theorem setKeyBlock_wf {m rounds i : Nat} (key : Nat → Byte) {ks : Schedule} (h1 : 8 * i + 8 ≤ m)
    (h2 : rounds - 8 - 8 * i + 8 ≤ m) (h : ks.wf m = true) : (setKeyBlock key rounds i ks).wf m = true := by
  simp only [setKeyBlock]
  exact schedulePass_wf _ _ _ h2 (schedulePass_wf _ _ _ h1 h)

/-- The N-level key set keeps the form: its two passes per key block stay below ROUNDS = 16 * SIZE (R106). -/
theorem setKeyLevel_wf (key : Nat → Byte) (size : Nat) {ks : Schedule} (h : ks.wf (16 * size) = true) :
    (setKeyLevel key size (16 * size) ks).wf (16 * size) = true := by
  suffices ∀ (xs : List Nat) (ks : Schedule), (∀ x ∈ xs, x < size) → ks.wf (16 * size) = true →
      (xs.foldl (fun ks i => setKeyBlock key (16 * size) i ks) ks).wf (16 * size) = true from
    this (List.range size) ks (by simp) h
  intro xs
  induction xs with
  | nil => exact fun _ _ h => h
  | cons x xs ih =>
    intro ks hx h
    have hxs := hx x List.mem_cons_self
    simp only [List.foldl_cons]
    apply ih
    · exact fun y hy => hx y (List.mem_cons_of_mem x hy)
    · exact setKeyBlock_wf key (by omega) (by omega) h

/-- The memories of the reset state are in canonical form. -/
theorem resetOf_memories_wf (p : Params) (n m : Nat) :
    (State.resetOf p).keybuf.wf n = true ∧ (State.resetOf p).ks.wf m = true := ⟨rfl, rfl⟩

end Sys2Proof.Machine
end

