-- ==== Sys2Proof/Laws/PerInstr.lean ====
section
/-! SUPPORT. One statement about every command as a word, one lemma per constructor. Family Fields: the encoder leaves both
reserved fields 0 (30_encoding R67), and the opcode is the table's (R69). -/

namespace Sys2Proof.Laws.Fields

/-- The opcode of R69. -/
def opcode : Instr → BitVec 4
  | .nop => 0x0
  | .config _ => 0x1
  | .setkey _ => 0x2
  | .encrypt _ => 0x3
  | .decrypt _ => 0x4
  | .gfmul => 0x5
  | .gfexp7 => 0x6
  | .perm32 => 0x7
  | .sboxrd _ _ => 0x8
  | .ftest => 0x9

def Statement (i : Instr) : Prop :=
  (encode i).extractLsb' 24 8 = 0#8 ∧ (encode i).extractLsb' 4 4 = 0#4 ∧ opcOf (encode i) = opcode i

theorem nop : Statement .nop := ⟨rfl, rfl, rfl⟩

theorem config (n : BitVec 16) : Statement (.config n) := ⟨rsvHigh_cmdWord _ _, rsvLow_cmdWord _ _, opcOf_cmdWord _ _⟩

theorem setkey (len : BitVec 16) : Statement (.setkey len) := ⟨rsvHigh_cmdWord _ _, rsvLow_cmdWord _ _, opcOf_cmdWord _ _⟩

theorem encrypt (len : BitVec 16) : Statement (.encrypt len) := ⟨rsvHigh_cmdWord _ _, rsvLow_cmdWord _ _, opcOf_cmdWord _ _⟩

theorem decrypt (len : BitVec 16) : Statement (.decrypt len) := ⟨rsvHigh_cmdWord _ _, rsvLow_cmdWord _ _, opcOf_cmdWord _ _⟩

theorem gfmul : Statement .gfmul := ⟨rfl, rfl, rfl⟩

theorem gfexp7 : Statement .gfexp7 := ⟨rfl, rfl, rfl⟩

theorem perm32 : Statement .perm32 := ⟨rfl, rfl, rfl⟩

theorem sboxrd (c : BitVec 2) (index : BitVec 10) : Statement (.sboxrd c index) :=
  ⟨rsvHigh_cmdWord _ _, rsvLow_cmdWord _ _, opcOf_cmdWord _ _⟩

theorem ftest : Statement .ftest := ⟨rfl, rfl, rfl⟩

end Sys2Proof.Laws.Fields
end

