-- ==== Sys2Proof/Laws/Step.lean ====
section
/-! SUPPORT. What a sequencer's move, one input and one step can do, said once each; the meanings' equations. -/

namespace Sys2Proof.Machine

/-! The meanings. -/

theorem exec_nop (s : State) : exec .nop s = .next (s.complete .ok) := rfl

theorem exec_config (n : BitVec 16) (s : State) :
    exec (.config n) s =
      .next (if s.cfg.nMax < n.toNat then s.complete .level else (s.configure (levelConfig n.toNat)).complete .ok) := rfl

theorem exec_setkey (len : BitVec 16) (s : State) :
    exec (.setkey len) s =
      .next
        (if len.setWidth 32 ≠ s.keylen then s.complete .keylen
         else { s with ks := Schedule.replaceBelow s.rounds.toNat s.buildSchedule s.ks, keyed := true }.complete .ok) := rfl

theorem exec_encrypt (len : BitVec 16) (s : State) :
    exec (.encrypt len) s =
      .next
        (if isBlockLength len then (s.setOutput (encryptBlock s.ks s.rounds.toNat s.din0 s.din1)).complete .ok
         else s.complete .blocklen) := rfl

theorem exec_decrypt (len : BitVec 16) (s : State) :
    exec (.decrypt len) s =
      .next
        (if isBlockLength len then (s.setOutput (decryptBlock s.ks s.rounds.toNat s.din0 s.din1)).complete .ok
         else s.complete .blocklen) := rfl

theorem exec_gfmul (s : State) :
    exec .gfmul s =
      .next (if validModulus s.gfM then { s with gfRes := gfMul s.gfA s.gfB s.gfM }.complete .ok else s.complete .operand) :=
  rfl

theorem exec_gfexp7 (s : State) :
    exec .gfexp7 s =
      .next (if validModulus s.gfM then { s with gfRes := gfExp7 s.gfA s.gfM }.complete .ok else s.complete .operand) := rfl

theorem exec_perm32 (s : State) : exec .perm32 s = .next ({ s with permOut := permute32 s.permIn }.complete .ok) := rfl

theorem exec_sboxrd (c : BitVec 2) (index : BitVec 10) (s : State) :
    exec (.sboxrd c index) s = .next ({ s with sboxOut := sbox index c }.complete .ok) := rfl

theorem exec_ftest (s : State) :
    exec .ftest s = .next ({ s with fOut := roundF s.fIn ⟨s.sk0, s.sk1, s.sk2⟩ }.complete .ok) := rfl

/-- A command always completes, and touches neither the inputs, the reset line, the parameters nor the initialisation (R74,
R75). -/
theorem exec_completes (i : Instr) (s : State) :
    ∃ t, exec i s = .next t ∧ t.inflight = false ∧ t.done = true ∧ t.initialising = s.initialising ∧ t.inputs = s.inputs ∧
      t.rst = s.rst ∧ t.cfg = s.cfg := by
  cases i <;>
    simp only [exec_nop, exec_config, exec_setkey, exec_encrypt, exec_decrypt, exec_gfmul, exec_gfexp7, exec_perm32,
      exec_sboxrd, exec_ftest] <;>
    refine ⟨_, rfl, ?_⟩ <;> (try split) <;> exact ⟨rfl, rfl, rfl, rfl, rfl, rfl⟩

/-! The sequencer, the inputs, the step. -/

/-- Everything a move of the sequencer can do. -/
theorem coreMove_cases (s : State) :
    (s.rst = true ∧ coreMove s = .next s) ∨
    (s.rst = false ∧ s.initialising = true ∧ coreMove s = .next s.endInit) ∨
    (s.rst = false ∧ s.initialising = false ∧ s.inflight = true ∧
      ((∃ e, decode s.pcmd = .error e ∧ coreMove s = .next (s.complete .illegal)) ∨
       (∃ i, decode s.pcmd = .ok i ∧ coreMove s = exec i s))) ∨
    (s.rst = false ∧ s.busy = false ∧ coreMove s = .next s) := by
  cases hr : s.rst <;> cases hi : s.initialising <;> cases hf : s.inflight <;>
    simp [coreMove, State.busy, hr, hi, hf, completePending]
  · cases decode s.pcmd <;> simp

/-- A move of the sequencer never stops, and touches neither the inputs, the reset line nor the parameters. -/
theorem coreMove_frame (s : State) :
    ∃ t, coreMove s = .next t ∧ t.inputs = s.inputs ∧ t.rst = s.rst ∧ t.cfg = s.cfg := by
  rcases coreMove_cases s with ⟨-, h⟩ | ⟨-, -, h⟩ | ⟨-, -, -, ⟨e, -, h⟩ | ⟨i, -, h⟩⟩ | ⟨-, -, h⟩ <;> rw [h]
  · exact ⟨s, rfl, rfl, rfl, rfl⟩
  · exact ⟨s.endInit, rfl, rfl, rfl, rfl⟩
  · exact ⟨s.complete .illegal, rfl, rfl, rfl, rfl⟩
  · obtain ⟨t, h1, -, -, -, h2⟩ := exec_completes i s
    exact ⟨t, h1, h2⟩
  · exact ⟨s, rfl, rfl, rfl, rfl⟩

/-- The reset input: an edge or a level gives the reset values, a deassertion without one changes nothing. -/
theorem setRst_cases (level : Bool) (s : State) :
    ((level = true ∨ s.rst = true) ∧
      s.setRst level = { State.resetOf s.cfg with rst := level, inputs := s.inputs, draws := s.draws }) ∨
    (level = false ∧ s.rst = false ∧ s.setRst level = s) := by
  cases level <;> cases h : s.rst <;> simp [State.setRst, h]

/-- A step with nothing pending is the sequencer's move. -/
theorem step_nil {s : State} (h : s.inputs = []) : step s = coreMove s := by simp [step, h]

/-- A step with something pending handles it. -/
theorem step_cons {s : State} {x : Input} {rest : List Input} (h : s.inputs = x :: rest) :
    step s = handle x { s with inputs := rest } := by simp [step, h]

/-- Everything a step can do, by what is pending. -/
theorem step_cases (s : State) :
    (s.inputs = [] ∧ step s = coreMove s) ∨
    (∃ a rest, s.inputs = .access a :: rest ∧ step s = serveAccess a { s with inputs := rest }) ∨
    (∃ rest, s.inputs = .tick :: rest ∧ step s = coreMove { s with inputs := rest }) ∨
    (∃ level rest, s.inputs = .rst level :: rest ∧ step s = .next (State.setRst level { s with inputs := rest })) := by
  match h : s.inputs with
  | [] => exact .inl ⟨rfl, step_nil h⟩
  | .access a :: rest => exact .inr (.inl ⟨a, rest, rfl, step_cons h⟩)
  | .tick :: rest => exact .inr (.inr (.inl ⟨rest, rfl, step_cons h⟩))
  | .rst level :: rest => exact .inr (.inr (.inr ⟨level, rest, rfl, step_cons h⟩))

end Sys2Proof.Machine
end

