-- ==== Sys2Proof/Tests/Slice0.lean ====
section
/-! SUPPORT. Tests on fixed values, their expected results from spec/95_test_vectors.md and the rules named, and for every
statement with hypotheses a witness that meets them. -/

namespace Sys2Proof.Machine.Tests

/-! ## Small states -/

/-- A build with N_MAX = 5 and no initialisation period. -/
def tiny : Params := { nMaxOff := 3, basePage := 7, initLat := 0 }

/-- The same with an initialisation period. -/
def slow : Params := { tiny with initLat := 9 }

/-- A build with the largest N_MAX. -/
def large : Params := { tiny with nMaxOff := 65533 }

/-- Just reset, no input pending. -/
def idle : State := State.resetOf tiny

/-- After `ice.config 2` (V3). -/
def level2 : State := { idle with size := 2, rounds := 32, keylen := 16 }

/-- The section 8 key in KEYBUF at level 2 (spec/95, the notation). -/
def key8 : State :=
  { level2 with
    keybuf := writeKeyWord (writeKeyWord (writeKeyWord (writeKeyWord [] 0 0x4353474F) 1 0x10360000) 2 0x840D0000) 3 0x61030000 }

/-- A command in flight. -/
def flying : State := { idle with inflight := true, pcmd := 0x00000803 }

/-- In the initialisation period. -/
def starting : State := State.resetOf slow

/-- `rst` asserted. -/
def held : State := { idle with rst := true }

/-- A keyed core with one slot that is not zero. -/
def keyedCore : State := { idle with keyed := true, ks := [(7, ⟨1, 2, 3⟩)] }

/-- The state after an outcome, where there is one. -/
def after (o : Host.Outcome State Fault Refusal) : Option State :=
  match o with
  | .next t => some t
  | .fault _ => none
  | .refused _ => none

/-- One step that completes the word `w`. -/
def completing (w : Word) (s : State) : Option State := after (step (s.pendWord w))

theorem inv_out_of_reset {s : State} (h1 : s.keybuf.wf s.cfg.keybufBytes = true) (h2 : s.ks.wf s.rounds.toNat = true)
    (h3 : s.Thin ∨ s.NLevel) (h4 : s.keyed = false → s.ks = []) (h5 : s.inflight = true → s.done = false)
    (h6 : s.initialising = false) (h7 : s.rst = false) : s.Inv :=
  ⟨h1, h2, h3, h4, h5, fun h => absurd h (by simp [h6]), fun h => absurd h (by simp [h7])⟩

theorem idle_inv : idle.Inv := inv_out_of_reset rfl rfl (.inl ⟨rfl, rfl, rfl⟩) (fun _ => rfl) nofun rfl rfl

theorem level2_inv : level2.Inv :=
  inv_out_of_reset rfl rfl (.inr (by unfold State.NLevel; decide)) (fun _ => rfl) nofun rfl rfl

theorem keyedCore_inv : keyedCore.Inv := inv_out_of_reset (by decide) (by decide) (.inl ⟨rfl, rfl, rfl⟩) nofun nofun rfl rfl

theorem starting_inv : starting.Inv :=
  ⟨rfl, rfl, .inl ⟨rfl, rfl, rfl⟩, fun _ => rfl, nofun, fun _ => ⟨rfl, rfl, rfl, rfl⟩, nofun⟩

theorem held_inv : held.Inv := ⟨rfl, rfl, .inl ⟨rfl, rfl, rfl⟩, fun _ => rfl, nofun, nofun, fun _ => rfl⟩

theorem flying_inv : flying.Inv := inv_out_of_reset rfl rfl (.inl ⟨rfl, rfl, rfl⟩) (fun _ => rfl) (fun _ => rfl) rfl rfl

/-! ## WellFormed: each check refuses an ill-formed term -/

theorem test_reserved_high_is_ill_formed : legalWord 0x01000702 = false ∧ legalWord 0x80000803 = false := by decide
theorem test_reserved_low_is_ill_formed : legalWord 0x00000015 = false ∧ legalWord 0x00000080 = false := by decide
theorem test_reserved_opcodes_are_ill_formed : ∀ w ∈ [(0xA : Word), 0xB, 0xC, 0xD, 0xE, 0xF], legalWord w = false := by
  simp only [List.forall_mem_cons, List.not_mem_nil, false_imp_iff, implies_true, and_true]; decide
theorem test_argument_where_none_is_ill_formed :
    ∀ w ∈ [(0x00000100 : Word), 0x00000105, 0x00800006, 0x00000107, 0x00000109], legalWord w = false := by
  simp only [List.forall_mem_cons, List.not_mem_nil, false_imp_iff, implies_true, and_true]; decide
theorem test_sbox_argument_is_ill_formed : legalWord 0x00100008 = false ∧ legalWord 0x00800008 = false := by decide
theorem test_legal_words :
    ∀ w ∈ [(0x00000000 : Word), 0x00FFFF01, 0x00FFFF02, 0x00FFFF03, 0x00FFFF04] ++
      [0x00000005, 0x00000006, 0x00000007, 0x000FFF08, 0x00000009], legalWord w = true := by
  simp only [List.cons_append, List.nil_append, List.forall_mem_cons, List.not_mem_nil, false_imp_iff, implies_true, and_true]
  decide
theorem test_large_numbers_are_ill_formed :
    ∀ c ∈ [AsmCmd.config 65536, .setkey 65536, .encrypt 65536, .decrypt 65536, .sboxrd 4 0, .sboxrd 0 1024, .raw (2 ^ 32)],
      c.wellFormed = false ∧ assemble c = none := by decide

/-! ## Decode: every command's word, written from the fields of R67 and R69 -/

theorem test_decode_nop : decode 0b00000000_0000000000000000_0000_0000#32 = .ok .nop := by decide
theorem test_decode_config : decode 0b00000000_0000000000000010_0000_0001#32 = .ok (.config 2) := by decide
theorem test_decode_setkey : decode 0b00000000_0000000000010000_0000_0010#32 = .ok (.setkey 16) := by decide
theorem test_decode_encrypt : decode 0b00000000_0000000000001000_0000_0011#32 = .ok (.encrypt 8) := by decide
theorem test_decode_decrypt : decode 0b00000000_0000000000001000_0000_0100#32 = .ok (.decrypt 8) := by decide
theorem test_decode_gfmul : decode 0b00000000_0000000000000000_0000_0101#32 = .ok .gfmul := by decide
theorem test_decode_gfexp7 : decode 0b00000000_0000000000000000_0000_0110#32 = .ok .gfexp7 := by decide
theorem test_decode_perm32 : decode 0b00000000_0000000000000000_0000_0111#32 = .ok .perm32 := by decide
theorem test_decode_sboxrd : decode 0b00000000_0000_10_0101010101_0000_1000#32 = .ok (.sboxrd 2 0x155) := by decide
theorem test_decode_ftest : decode 0b00000000_0000000000000000_0000_1001#32 = .ok .ftest := by decide
theorem test_decode_reserved_first : decode 0x01000702 = .error .reservedHigh ∧ decode 0x00000015 = .error .reservedLow ∧
    decode 0x00100008 = .error .sboxArgument ∧ decode 0x00000100 = .error .argument := by decide
theorem test_table_word : decodeTableWord 32 0x000FFF08 = some (.sboxrd 3 1023) ∧ decodeTableWord 32 0xA = none := by decide
theorem test_assemble_sboxrd : assemble (.sboxrd 2 0x2AA) = some 0x000AAA08 ∧ assemble (.config 65535) = some 0x00FFFF01 := by
  decide

/-! ## One step of each command (spec/95 section 3) -/

theorem test_nop : (completing 0x00000000 idle).map State.statusWord = some 0x00000002 := by decide
theorem test_config_2 :
    (completing 0x00000201 idle).map (fun t => (t.size, t.rounds, t.keylen, t.statusWord)) = some (2, 32, 16, 0x00000002) := by
  decide
theorem test_config_above_nmax :
    (completing 0x00000601 idle).map (fun t => (t.size, t.rounds, t.statusWord)) = some (1, 8, 0x00000042) := by decide
/-- The thin pass on zero registers, table of section 3.5. -/
theorem test_setkey_thin :
    (completing 0x00001002 idle).map (fun t => (t.ks.read 1, t.ks.read 7, t.statusWord)) =
      some (⟨0x0FFFF, 0xFFFFF, 0xFFFFF⟩, ⟨0x000FF, 0x00FFF, 0x00FFF⟩, 0x0000000A) := by decide +kernel
/-- The section 8 key's slots 0, 15 and 31, table of section 4. -/
theorem test_setkey_level2 :
    (completing 0x00001002 key8).map (fun t => (t.ks.read 0, t.ks.read 15, t.ks.read 31)) =
      some (⟨0x32334, 0x75020, 0x64303⟩, ⟨0x001EF, 0x14AEF, 0x04BFF⟩, ⟨0xD5080, 0x91C0C, 0x8CC10⟩) := by decide +kernel
/-- Unkeyed thin mode, section 3.7. -/
theorem test_encrypt_unkeyed :
    (completing 0x00000803 { idle with din0 := 0x01020304, din1 := 0x05060708 }).map (fun t => (t.dout0, t.dout1)) =
      some (0xFEED9836, 0x441448BF) := by decide +kernel
/-- V1's first two rounds, trace of section 4. -/
theorem test_encrypt_trace :
    encryptLoop [(0, ⟨0x32334, 0x75020, 0x64303⟩), (1, ⟨0x0379F, 0x9B997, 0x15FBF⟩)] 1 0 0xF9C7BBB7 0xF7836ABE =
      (0x8C30C6EA, 0x3F10F74D) := by decide +kernel
theorem test_encrypt_wrong_length : (completing 0x00000703 idle).map State.statusWord = some 0x00000032 := by decide
/-- V2's last two rounds, trace of section 4. -/
theorem test_decrypt_trace :
    decryptLoop [(0, ⟨0x32334, 0x75020, 0x64303⟩), (1, ⟨0x0379F, 0x9B997, 0x15FBF⟩)] 1 2 0x3F10F74D 0x8C30C6EA =
      (0xF7836ABE, 0xF9C7BBB7) := by decide +kernel
theorem test_decrypt_wrong_length : (completing 0x00001004 idle).map State.statusWord = some 0x00000032 := by decide
theorem test_gfmul :
    (completing 0x00000005 { idle with gfA := 0xFF, gfB := 0xFF, gfM := 0x1F9 }).map (·.gfRes) = some 0x7B := by decide
theorem test_gfmul_invalid_modulus :
    (completing 0x00000005 { idle with gfA := 0x53, gfB := 0xCA, gfM := 0x0FF, gfRes := 7 }).map
      (fun t => (t.gfRes, t.statusWord)) = some (7, 0x00000052) := by decide
theorem test_gfexp7 : (completing 0x00000006 { idle with gfA := 0x83, gfM := 0x14D }).map (·.gfRes) = some 0x17 := by decide
theorem test_gfexp7_checks_the_modulus_first : (completing 0x00000006 idle).map State.statusWord = some 0x00000052 := by decide
theorem test_perm32 :
    (completing 0x00000007 { idle with permIn := 0x12345678 }).map (·.permOut) = some 0x056F2360 := by decide
theorem test_sboxrd_first : (completing 0x00000008 idle).map (·.sboxOut) = some 0x00040842 := by decide
theorem test_sboxrd_last : (completing 0x000FFF08 idle).map (·.sboxOut) = some 0x40080080 := by decide
theorem test_ftest :
    (completing 0x00000009 { idle with fIn := 0xF7836ABE, sk0 := 0x32334, sk1 := 0x75020, sk2 := 0x64303 }).map (·.fOut) =
      some 0x75F77D5D := by decide
theorem test_illegal_word : (completing 0x01000702 idle).map State.statusWord = some 0x00000012 := by decide

/-! ## The register interface and reset (spec/95 section 3.9) -/

theorem test_write_gf_a : ((idle.wr .gfA 0x1FF).rd .gfA).1 = 0xFF := by decide
theorem test_write_sk0 : ((idle.wr .sk0 0xFFFFFFFF).rd .sk0).1 = 0x000FFFFF := by decide
theorem test_keybuf_reads_zero : ((idle.wr (.keybuf 0) 0x4353474F).rd (.keybuf 0)).1 = 0 := by decide
theorem test_dropped_command : (flying.wr .cmd 0x804).statusWord = 0x00000005 ∧
    ((flying.wr .cmd 0x804).wr .status 0x4).statusWord = 0x00000001 := by decide
theorem test_interrupt : { idle with done := true, ie := true }.irq = true ∧
    ({ idle with done := true, ie := true }.wr .status 0x2).irq = false := by decide
theorem test_narrow_access_is_a_bus_error :
    (after (serveAccess ⟨tiny.base + 0x31, 1, .write 0⟩ idle)).map (·.reply) = some .busError := by decide
theorem test_reset_from_fetch_word :
    (after (step (State.reset.withFetchWord 32 0x00000803))).map (fun t => (t.dout0, t.dout1)) =
      some (0x220EE2B2, 0x9C781C03) := by decide +kernel
/-- The padding of a full block and of 25 bytes (V4, V5, V7). -/
theorem test_padding : padLength 8 = 8 ∧ padLength 25 = 7 ∧ (chunks8 (padded (List.replicate 25 1))).length = 4 := by decide
/-- The two outcomes of a command written after a bare one (spec/95 P3 step 10, with NOP): dropped with OVR, or accepted. -/
theorem test_bare_command_in_both_orders :
    (runHost [.cmd .nop, .cmd .nop, .wait, .rd .status] idle).map (·.1) = some [0x00000006] ∧
    (runHost [.cmd .nop, .elapse, .cmd .nop, .wait, .rd .status] idle).map (·.1) = some [0x00000002] := by decide
/-- Writes to the 32-bit operand registers (R39, R41). -/
theorem test_write_perm_in_and_f_in : ((idle.wr .permIn 0xDEADBEEF).rd .permIn).1 = 0xDEADBEEF ∧
    ((idle.wr .fIn 0x12345678).rd .fIn).1 = 0x12345678 := by decide

/-! ## Witnesses: the hypotheses of each statement can be met -/

theorem witness_IllegalWordCompletesWithErrorOnly :
    ∀ w ∈ [(0x01000000 : Word), 0x80000803, 0x00000010, 0x00000080, 0xA, 0xF] ++
        [0x00000100, 0x00800005, 0x00000106, 0x00000107, 0x00000109, 0x00100008, 0x00800008],
      IllegalByR70 w ∧ (idle.pendWord w).pcmd = w ∧ (idle.pendWord w).AtCompletion [] ∧ idle.busy = false := by
  simp only [List.cons_append, List.nil_append, List.forall_mem_cons, List.not_mem_nil, false_imp_iff, implies_true, and_true]
  unfold IllegalByR70 State.AtCompletion; and_intros <;> decide

/-- Each legal opcode with the largest argument R70 allows it. -/
theorem witness_IllegalWord_other_side :
    ∀ w ∈ [(0x00000000 : Word), 0x00FFFF01, 0x00FFFF04, 0x00000005, 0x00000007, 0x000FFF08, 0x00000009], ¬ IllegalByR70 w := by
  simp only [List.forall_mem_cons, List.not_mem_nil, false_imp_iff, implies_true, and_true]
  unfold IllegalByR70; and_intros <;> decide

theorem witness_AssemblerWordsAreTheCommands :
    (65535 : Nat) ≤ 65535 ∧ 65535 < (65536 : Nat) ∧ ((3 : Nat) ≤ 3 ∧ (1023 : Nat) ≤ 1023) ∧ (3 < (4 : Nat) ∨ 1023 < (1024 : Nat)) := by
  decide

theorem witness_ResetLeavesTheSpecValues : idle = State.resetOf tiny ∧ ¬ 0 < tiny.initLat ∧ 0 < slow.initLat := by
  refine ⟨rfl, ?_, ?_⟩ <;> decide

theorem witness_StepRunsTheDecodedCommand :
    (idle.pendWord 0x000FFF08).AtCompletion [] ∧ decode (idle.pendWord 0x000FFF08).pcmd = .ok (.sboxrd 3 1023) ∧
    flying.AtCompletion [] := by unfold State.AtCompletion; decide

theorem witness_CommandWriteIsAcceptedOrDropped :
    flying.inflight = true ∧ starting.initialising = true ∧ ¬ (idle.inflight = true ∨ idle.initialising = true) := by decide

/-- Each error code has a state whose step completes with it. -/
theorem witness_FailedCommandChangesOnlyStatus :
    ∀ e ∈ [((0xA : Word), ErrCode.illegal), (0x802, .keylen), (0x703, .blocklen), (0x601, .level), (0x5, .operand)],
      (idle.pendWord e.1).AtCompletion [] ∧ (completing e.1 idle).map (·.err) = some e.2 ∧ e.2 ≠ .ok := by
  unfold State.AtCompletion; decide

theorem witness_NopOnlyCompletes : slice 0x00000010 3 0 = 0x0 ∧ (0x00000010 : Word) ≠ 0 := by decide

theorem witness_ConfigBuildsTheLevel :
    (6 : BitVec 16).toNat > idle.cfg.nMax ∧ ¬ (5 : BitVec 16).toNat > idle.cfg.nMax ∧ ¬ (0 : BitVec 16).toNat > idle.cfg.nMax := by
  decide

theorem witness_modulus :
    (0x100 : Modulus).getLsbD 8 = true ∧ (0x1FF : Modulus).getLsbD 8 = true ∧ (0x0FF : Modulus).getLsbD 8 = false ∧
      idle.gfM.getLsbD 8 = false := by decide

theorem witness_SboxrdWritesTheEntry :
    ∀ e ∈ [((0 : BitVec 10), (0 : Byte), (0 : BitVec 2)), (1023, 255, 3), (0x200, 0, 2), (0x201, 0, 3), (0x106, 0x83, 0)],
      e.2.1.toNat = e.1.toNat / 2 % 256 ∧ e.2.2.toNat = 2 * (e.1.toNat / 512) + e.1.toNat % 2 := by
  simp only [List.forall_mem_cons, List.not_mem_nil, false_imp_iff, implies_true, and_true]; decide

theorem witness_SboxColumnsAreDisjointLanes :
    (0 : BitVec 2) ≠ 3 ∧ sboxRow 1023 = sboxRow 1023 ∧ sbox 0x106 0 = 0 ∧ sboxCol 0x106 = sxor 0 (sboxRow 0x106) := by decide

theorem witness_RoundFunctionIsAKeyedSwap :
    (⟨1, 2, 0⟩ : Subkey).w2 = 0 ∧ (⟨1, 2, 0xFFFFF⟩ : Subkey).w2 = 0xFFFFF ∧ (0x80000 : Half20).getLsbD 19 = true ∧
      (0x80000 : Half20).getLsbD 0 = false := by decide

theorem witness_WrongLengthsAreRefused :
    (15 : BitVec 16).toNat ≠ idle.keylen.toNat ∧ (17 : BitVec 16).toNat ≠ idle.keylen.toNat ∧ (7 : BitVec 16).toNat ≠ 8 ∧
      (9 : BitVec 16).toNat ≠ 8 := by decide

theorem witness_SetkeyThinBuildsEightSlots : idle.Inv ∧ idle.rounds = 8 := ⟨idle_inv, rfl⟩

/-- The least and the greatest level. -/
theorem witness_SetkeyLevelBuildsMirroredSlots :
    (∃ (s : State) (len : BitVec 16), s.Inv ∧ s.NLevel ∧ len.toNat = s.keylen.toNat ∧ s.size = 1) ∧
    (∃ (s : State) (len : BitVec 16), s.Inv ∧ s.NLevel ∧ len.toNat = s.keylen.toNat ∧ s.size.toNat = s.cfg.nMax) := by
  have h1 : State.NLevel { idle with size := 1, rounds := 16, keylen := 8 } := by unfold State.NLevel; decide
  have h5 : State.NLevel { idle with size := 5, rounds := 80, keylen := 40 } := by unfold State.NLevel; decide
  exact ⟨⟨_, 8, inv_out_of_reset rfl rfl (.inr h1) (fun _ => rfl) nofun rfl rfl, h1, rfl, rfl⟩,
    ⟨_, 40, inv_out_of_reset rfl rfl (.inr h5) (fun _ => rfl) nofun rfl rfl, h5, rfl, rfl⟩⟩

theorem witness_LevelsAbove8191CannotBeKeyed : ∃ s : State, s.Inv ∧ s.size.toNat = 8192 := by
  have h : State.NLevel { State.resetOf large with size := 8192, rounds := 131072, keylen := 65536 } := by
    unfold State.NLevel; decide
  exact ⟨_, inv_out_of_reset rfl rfl (.inr h) (fun _ => rfl) nofun rfl rfl, rfl⟩

/-- The halves after `k` turns, slot by slot upward. -/
def upward (s : State) : Nat → Word × Word
  | 0 => (s.din0, s.din1)
  | k + 1 =>
    let l := (upward s k).1 ^^^ roundF (upward s k).2 (s.ks.read (2 * k))
    (l, (upward s k).2 ^^^ roundF l (s.ks.read (2 * k + 1)))

/-- The halves after `k` of `n` turns, slot by slot downward. -/
def downward (s : State) (n : Nat) : Nat → Word × Word
  | 0 => (s.din0, s.din1)
  | k + 1 =>
    let l := (downward s n k).1 ^^^ roundF (downward s n k).2 (s.ks.read (2 * (n - k) - 1))
    (l, (downward s n k).2 ^^^ roundF l (s.ks.read (2 * (n - k) - 2)))

theorem witness_EncryptRunsTheRoundsInOrder :
    ∃ (s : State) (n : Nat) (l r : Nat → Word), s.rounds.toNat = 2 * n ∧ l 0 = s.din0 ∧ r 0 = s.din1 ∧
      ∀ k : Nat, k < n → l (k + 1) = l k ^^^ roundF (r k) (s.ks.read (2 * k)) ∧
        r (k + 1) = r k ^^^ roundF (l (k + 1)) (s.ks.read (2 * k + 1)) :=
  ⟨keyedCore, 4, fun k => (upward keyedCore k).1, fun k => (upward keyedCore k).2, rfl, rfl, rfl, fun _ _ => ⟨rfl, rfl⟩⟩

theorem witness_DecryptRunsTheRoundsInReverse :
    ∃ (s : State) (n : Nat) (l r : Nat → Word), s.rounds.toNat = 2 * n ∧ l 0 = s.din0 ∧ r 0 = s.din1 ∧
      ∀ k : Nat, k < n → l (k + 1) = l k ^^^ roundF (r k) (s.ks.read (2 * (n - k) - 1)) ∧
        r (k + 1) = r k ^^^ roundF (l (k + 1)) (s.ks.read (2 * (n - k) - 2)) :=
  ⟨keyedCore, 4, fun k => (downward keyedCore 4 k).1, fun k => (downward keyedCore 4 k).2, rfl, rfl, rfl,
    fun _ _ => ⟨rfl, rfl⟩⟩

theorem witness_DecryptAndEncryptAreInverse :
    keyedCore.rounds.toNat % 2 = 0 ∧ (∃ t, exec (.encrypt 8) keyedCore = .next t) ∧
      (∃ t, exec (.decrypt 8) keyedCore = .next t) ∧
      ({ keyedCore with gfA := 1 } : State).ks = keyedCore.ks := ⟨by decide, ⟨_, rfl⟩, ⟨_, rfl⟩, rfl⟩

theorem witness_PalindromicScheduleMakesThemEqual :
    (∃ s : State, s.rounds.toNat % 2 = 0 ∧ (∀ i : Nat, i < s.rounds.toNat → s.ks.read i = s.ks.read (s.rounds.toNat - 1 - i)) ∧
      s.ks.read 0 ≠ Subkey.zero) ∧
    idle.Inv ∧ idle.keyed = false ∧ idle.ks = [] ∧ idle.rounds = 8 ∧ idle.din0 = 0 ∧ idle.din1 = 0 := by
  refine ⟨⟨{ idle with ks := [(0, ⟨1, 2, 3⟩), (7, ⟨1, 2, 3⟩)] }, rfl, ?_, by decide⟩, idle_inv, rfl, rfl, rfl, rfl, rfl⟩
  show ∀ i : Nat, i < 8 → _
  decide

/-- Every command has a next state, so every clause of the frames and of the flags' rules has one. -/
theorem witness_every_command_has_a_next_state (i : Instr) : ∃ t, exec i idle = .next t := by
  obtain ⟨t, h, -⟩ := exec_completes i idle
  exact ⟨t, h⟩

theorem witness_OverrunFlagFollowsItsRule :
    (∃ t, coreMove flying = .next t) ∧
    (flying.busy = true ∧ (regAt flying.cfg 0x020).blockedWhileBusy = true) ∧
    (regAt idle.cfg 0x004 = .status ∧ (0x4 : Word).getLsbD 2 = true) := ⟨⟨_, rfl⟩, by decide, by decide⟩

theorem witness_DoneAndErrorFollowTheirRules :
    idle.busy = false ∧ (0x2 : Word).getLsbD 1 = true ∧ (0x4 : Word).getLsbD 1 = false ∧
    ∃ t, coreMove { flying with pcmd := 0xA } = .next t ∧ t.err ≠ flying.err := by
  refine ⟨by decide, by decide, by decide, _, rfl, by decide⟩

theorem witness_KeyedFlagFollowsItsRule :
    decode ({ flying with pcmd := 0xA } : State).pcmd = .error .opcode ∧ (∃ t, coreMove { flying with pcmd := 0xA } = .next t) ∧
    ∃ t, exec (.setkey 16) idle = .next t := ⟨by decide, ⟨_, rfl⟩, ⟨_, rfl⟩⟩

theorem witness_InterruptIsDoneAndEnabled :
    (0x2 : Word).getLsbD 1 = true ∧ idle.busy = false ∧ (0x0 : Word).getLsbD 0 = false := by decide

/-- The first and the last word of KEYBUF. -/
theorem witness_KeyBufferWordHoldsItsBytes :
    idle.Inv ∧ idle.busy = false ∧ 4 * 0 < idle.cfg.keybufBytes ∧ 4 * 9 < idle.cfg.keybufBytes ∧ ¬ 4 * 10 < idle.cfg.keybufBytes :=
  ⟨idle_inv, by decide⟩

/-- Each class of targets, at its first and last offset. -/
theorem witness_BusyWritesAreBlockedByTarget :
    flying.busy = true ∧ regAt tiny 0x000 = .cmd ∧ regAt tiny 0x058 = .sk2 ∧ regAt tiny 0x100 = .keybuf 0 ∧
    regAt tiny 0x124 = .keybuf 9 ∧ regAt tiny 0x004 = .status ∧ regAt tiny 0x008 = .ctrl ∧ regAt tiny 0x00C = .size ∧
    regAt tiny 0x05C = .fOut ∧ regAt tiny 0x060 = .reserved ∧ regAt tiny 0x0FC = .reserved ∧ regAt tiny 0x128 = .reserved := by
  decide

theorem witness_BusyReadsAreUnspecifiedByRegister :
    flying.busy = true ∧ starting.busy = true ∧ idle.busy = false ∧ regAt tiny 0x028 = .dout0 ∧ regAt tiny 0x03C = .gfRes ∧
    regAt tiny 0x00C = .size ∧ regAt tiny 0x014 = .keylen ∧ regAt tiny 0x004 = .status ∧ regAt tiny 0x058 = .sk2 ∧
    regAt tiny 0x000 = .cmd ∧ regAt tiny 0x0FC = .reserved ∧ regAt tiny 0x124 = .keybuf 9 := by decide

/-- A narrow access at the aperture's first byte, a wide one, and a word access at its last bytes. -/
theorem witness_OtherAccessesGetABusError :
    ∀ a ∈ [(⟨tiny.base, 1, .read⟩ : Access), ⟨tiny.base + 8, 8, .write 5⟩, ⟨tiny.base + 4095, 4, .read⟩],
      idle.rst = false ∧ idle.cfg.base ≤ a.addr ∧ a.addr < idle.cfg.base + idle.cfg.apertureBytes ∧
        (a.bytes ≠ 4 ∨ (a.addr - idle.cfg.base) % 4 ≠ 0) := by decide

theorem witness_AccessSideEffectsAreOnlyTheNamedOnes :
    flying.Inv ∧ (flying.busy = true ∧ (regAt flying.cfg 0x020).blockedWhileBusy = true) ∧
    4 * 0 < idle.cfg.keybufBytes ∧ 4 * 9 < idle.cfg.keybufBytes ∧ idle.Inv ∧ idle.busy = false ∧ regAt idle.cfg 0x124 = .keybuf 9 ∧ regAt idle.cfg 0x024 = .din1 ∧
    regAt idle.cfg 0x060 = .reserved ∧
    (flying.busy = false ∨ (regAt flying.cfg 0x008).blockedWhileBusy = false) :=
  ⟨flying_inv, by decide, by decide, by decide, idle_inv, by decide⟩

theorem witness_ReservedOffsetsReadZeroIgnoreWrites :
    ∀ off ∈ [0x060, 0x0FC, 0x100 + tiny.keybufBytes, tiny.apertureBytes - 4],
      off % 4 = 0 ∧ off < idle.cfg.apertureBytes ∧ idle.rst = false ∧
        ((0x060 ≤ off ∧ off ≤ 0x0FC) ∨ 0x100 + idle.cfg.keybufBytes ≤ off) := by decide

theorem witness_RegisterMapAnswersAtItsOffsets :
    idle.rst = false ∧ idle.busy = false ∧ 4 * 0 < idle.cfg.keybufBytes ∧ 4 * 9 < idle.cfg.keybufBytes := by decide

theorem witness_ResetInputRestoresTheResetState :
    ({ flying with inputs := [.rst true] } : State).inputs = .rst true :: [] ∧ held.rst = true ∧
    ({ held with inputs := [.rst false, .tick] } : State).inputs = .rst false :: [.tick] ∧
    ({ held with inputs := [.access ⟨0, 4, .read⟩] } : State).inputs = .access ⟨0, 4, .read⟩ :: [] := ⟨rfl, rfl, rfl, rfl⟩

theorem witness_InitialisationEndsQuietly : starting.Inv ∧ starting.rst = false ∧ starting.initialising = true :=
  ⟨starting_inv, rfl, rfl⟩

theorem witness_CommandWriteAndCompletionInBothOrders :
    flying.rst = false ∧ flying.initialising = false ∧ flying.inflight = true := ⟨rfl, rfl, rfl⟩

/-- A step from each kind of state that meets the invariant. -/
theorem witness_EveryStepKeepsTheInvariant :
    (flying.Inv ∧ ∃ t, step flying = .next t) ∧ (starting.Inv ∧ ∃ t, step starting = .next t) ∧
    (held.Inv ∧ ∃ t, step held = .next t) ∧ (keyedCore.Inv ∧ ∃ t, step keyedCore = .next t) :=
  ⟨⟨flying_inv, _, rfl⟩, ⟨starting_inv, _, rfl⟩, ⟨held_inv, _, rfl⟩, ⟨keyedCore_inv, _, rfl⟩⟩

theorem witness_ConfigurationRegistersStayLegal : idle.Inv ∧ idle.rounds = 8 ∧ level2.Inv ∧ level2.rounds ≠ 8 :=
  ⟨idle_inv, rfl, level2_inv, by decide⟩

theorem witness_OperandsAreTheHostsResultsTheCores :
    (∃ t, step flying = .next t) ∧ (∃ t, coreMove flying = .next t) ∧
    (∃ t, serveAccess ⟨tiny.base + 0x020, 4, .write 5⟩ idle = .next t) := ⟨⟨_, rfl⟩, ⟨_, rfl⟩, ⟨_, rfl⟩⟩

theorem witness_OperandsAreFrozenInFlight :
    flying.inflight = true ∧ ∃ t, serveAccess ⟨tiny.base + 0x020, 4, .write 5⟩ flying = .next t := ⟨rfl, _, rfl⟩

/-- The aperture's first and last word, a reset pulse between them. -/
theorem witness_DutifulHostNeverStopsTheCore :
    State.Dutiful { idle with inputs := [.access ⟨tiny.base, 4, .write 0⟩, .rst true, .tick, .rst false,
      .access ⟨tiny.base + 4092, 4, .read⟩] } := by unfold State.Dutiful; decide

theorem witness_CoreIsIdleOneStepAfterItsInputs : starting.Inv ∧ starting.Dutiful ∧ flying.Inv ∧ flying.Dutiful :=
  ⟨starting_inv, rfl, flying_inv, rfl⟩

theorem witness_OnlyBlockCommandsRevealTheKeys :
    keyedCore.AgreeButKeys { keyedCore with keybuf := [(0, 1)], ks := [] } ∧
    ∀ len, Instr.ftest ≠ .encrypt len ∧ Instr.ftest ≠ .decrypt len :=
  ⟨rfl, fun _ => ⟨nofun, nofun⟩⟩

/-- Level 0, N_MAX, N_MAX + 1, and a level no 16-bit ARG carries. -/
theorem witness_DriverNewBuildsOrReportsTheLevel :
    idle.Inv ∧ idle.rst = false ∧ idle.busy = false ∧ 0 ≤ idle.cfg.nMax ∧ 5 ≤ idle.cfg.nMax ∧ idle.cfg.nMax < 6 ∧
      idle.cfg.nMax < 65536 := ⟨idle_inv, by decide⟩

theorem witness_DriverSetKeyChecksThenKeys :
    idle.Inv ∧ idle.rst = false ∧ idle.busy = false ∧ (List.replicate 15 (1 : Byte)).length ≠ idle.keylen.toNat ∧
      (List.replicate 16 (1 : Byte)).length = idle.keylen.toNat := ⟨idle_inv, by decide⟩

theorem witness_DriverSetKey_not_encodable :
    ∃ (s : State) (key : List Byte), s.Inv ∧ s.rst = false ∧ s.busy = false ∧ key.length = s.keylen.toNat ∧ 65535 < key.length := by
  have h : State.NLevel { State.resetOf large with size := 8192, rounds := 131072, keylen := 65536 } := by
    unfold State.NLevel; decide
  exact ⟨_, List.replicate 65536 0, inv_out_of_reset rfl rfl (.inr h) (fun _ => rfl) nofun rfl rfl, rfl, rfl,
    List.length_replicate, by rw [List.length_replicate]; decide⟩

theorem witness_DriverBlockOperationsReturnTheBlock :
    keyedCore.Inv ∧ keyedCore.rst = false ∧ keyedCore.busy = false ∧ (List.replicate 8 (1 : Byte)).length = 8 ∧
      (List.replicate 9 (1 : Byte)).length ≠ 8 ∧ ([] : List Byte).length ≠ 8 := ⟨keyedCore_inv, by decide⟩

theorem witness_DecryptBufferOfEncryptBuffer : keyedCore.Inv ∧ keyedCore.rst = false ∧ keyedCore.busy = false :=
  ⟨keyedCore_inv, rfl, by decide⟩

end Sys2Proof.Machine.Tests
end

section
/-! The configuration registers in each of the two modes of R81, and what a state of the invariant knows of them (R34). -/

namespace Sys2Proof.Machine

/-- At a level ROUNDS is a multiple of 16, so never the 8 of thin mode (R81). -/
theorem State.NLevel.rounds_ne_eight {s : State} (h : s.NLevel) : s.rounds ≠ 8 := by
  obtain ⟨-, -, hrounds, -⟩ := h
  intro h8
  have : s.rounds.toNat = 8 := by rw [h8]; rfl
  omega

theorem State.Thin.rounds_toNat {s : State} (h : s.Thin) : s.rounds.toNat = 8 := by
  obtain ⟨-, hrounds, -⟩ := h
  rw [hrounds]; rfl

theorem State.Thin.rounds_le_ksSlots {s : State} (h : s.Thin) : s.rounds.toNat ≤ s.cfg.ksSlots := by
  rw [h.rounds_toNat, Params.ksSlots, Params.nMax]
  omega

theorem State.NLevel.rounds_le_ksSlots {s : State} (h : s.NLevel) : s.rounds.toNat ≤ s.cfg.ksSlots := by
  obtain ⟨-, hle, hrounds, -⟩ := h
  rw [hrounds, Params.ksSlots]
  exact Nat.mul_le_mul_left 16 hle

theorem State.Inv.rounds_le_ksSlots {s : State} (h : s.Inv) : s.rounds.toNat ≤ s.cfg.ksSlots :=
  h.level.elim State.Thin.rounds_le_ksSlots State.NLevel.rounds_le_ksSlots

/-- ROUNDS alone tells the two modes apart (R34). -/
theorem State.Inv.rounds_eq_eight_iff {s : State} (h : s.Inv) : s.rounds = 8 ↔ s.Thin :=
  ⟨fun h8 => h.level.resolve_right fun hn => hn.rounds_ne_eight h8, fun ⟨_, hrounds, _⟩ => hrounds⟩

/-- ROUNDS is 8 or a positive multiple of 16. -/
theorem State.Inv.rounds_even_ge_eight {s : State} (h : s.Inv) : s.rounds.toNat % 2 = 0 ∧ 8 ≤ s.rounds.toNat := by
  obtain hthin | ⟨hpos, -, hrounds, -⟩ := h.level
  · simp [hthin.rounds_toNat]
  · omega

theorem State.Inv.size_mem_range {s : State} (h : s.Inv) : 1 ≤ s.size.toNat ∧ s.size.toNat ≤ max 1 s.cfg.nMax := by
  obtain ⟨hsize, -, -⟩ | ⟨hpos, hle, -, -⟩ := h.level
  · simp [hsize]
  · exact ⟨hpos, le_max_of_le_right hle⟩

/-- The key length SETKEY requires (R31). -/
theorem State.Inv.keylen_toNat {s : State} (h : s.Inv) :
    s.keylen.toNat = if s.rounds = 8 then 16 else 8 * s.size.toNat := by
  obtain ⟨-, hrounds, hkeylen⟩ | hn := h.level
  · rw [if_pos hrounds, hkeylen]; rfl
  · rw [if_neg hn.rounds_ne_eight]
    obtain ⟨-, -, -, hkeylen⟩ := hn
    exact hkeylen

/-- Settles O50: the invariant's `level` allows thin mode and the levels up to N_MAX only, and R34's facts hold in each. -/
theorem configurationRegistersStayLegal : Obligations.ConfigurationRegistersStayLegal := by
  intro s h
  obtain ⟨heven, hge⟩ := h.rounds_even_ge_eight
  obtain ⟨hpos, hle⟩ := h.size_mem_range
  exact ⟨heven, hge, h.rounds_eq_eight_iff, hpos, hle, h.keylen_toNat, h.rounds_le_ksSlots⟩

end Sys2Proof.Machine
end

section
/-! Every command in one form: the code it completes with, its effect where that is E_OK, and what the effect leaves unchanged
(R74, R132). -/

namespace Sys2Proof.Machine

/-- The code a command completes with (R133). -/
def completionCode (i : Instr) (s : State) : ErrCode :=
  match i with
  | .config n => if s.cfg.nMax < n.toNat then .level else .ok
  | .setkey len => if len.setWidth 32 ≠ s.keylen then .keylen else .ok
  | .encrypt len | .decrypt len => if isBlockLength len then .ok else .blocklen
  | .gfmul | .gfexp7 => if validModulus s.gfM then .ok else .operand
  | .nop | .perm32 | .sboxrd _ _ | .ftest => .ok

/-- What a successful command does besides completing. -/
def effect (i : Instr) (s : State) : State :=
  match i with
  | .nop => s
  | .config n => s.configure (levelConfig n.toNat)
  | .setkey _ => { s with ks := Schedule.replaceBelow s.rounds.toNat s.buildSchedule s.ks, keyed := true }
  | .encrypt _ => s.setOutput (encryptBlock s.ks s.rounds.toNat s.din0 s.din1)
  | .decrypt _ => s.setOutput (decryptBlock s.ks s.rounds.toNat s.din0 s.din1)
  | .gfmul => { s with gfRes := gfMul s.gfA s.gfB s.gfM }
  | .gfexp7 => { s with gfRes := gfExp7 s.gfA s.gfM }
  | .perm32 => { s with permOut := permute32 s.permIn }
  | .sboxrd c index => { s with sboxOut := sbox index c }
  | .ftest => { s with fOut := roundF s.fIn ⟨s.sk0, s.sk1, s.sk2⟩ }

/-- A command completes with its code, and has its effect when that is E_OK. -/
theorem exec_eq (i : Instr) (s : State) :
    exec i s =
      .next (if completionCode i s = .ok then (effect i s).complete .ok else s.complete (completionCode i s)) := by
  cases i with
  | nop | perm32 | sboxrd | ftest => rfl
  | config n => rw [exec_config]; simp only [completionCode]; split <;> rfl
  | setkey len => rw [exec_setkey]; simp only [completionCode]; split <;> rfl
  | encrypt len => rw [exec_encrypt]; simp only [completionCode]; split <;> rfl
  | decrypt len => rw [exec_decrypt]; simp only [completionCode]; split <;> rfl
  | gfmul => rw [exec_gfmul]; simp only [completionCode]; split <;> rfl
  | gfexp7 => rw [exec_gfexp7]; simp only [completionCode]; split <;> rfl

/-- The next state of a command is that of its success or that of its failure. -/
theorem exec_next_cases {i : Instr} {s t : State} (h : exec i s = .next t) :
    (completionCode i s = .ok ∧ t = (effect i s).complete .ok) ∨
      (completionCode i s ≠ .ok ∧ t = s.complete (completionCode i s)) := by
  rw [exec_eq] at h
  cases h
  by_cases hc : completionCode i s = .ok
  · exact .inl ⟨hc, if_pos hc⟩
  · exact .inr ⟨hc, if_neg hc⟩

/-- `t` has `s`'s operand registers, key buffer and CTRL, which the host alone writes (R19), its OVR and word in flight, and its
surroundings. -/
structure State.SameHostRegs (s t : State) : Prop where
  cfg : t.cfg = s.cfg
  rst : t.rst = s.rst
  ovr : t.ovr = s.ovr
  ie : t.ie = s.ie
  din0 : t.din0 = s.din0
  din1 : t.din1 = s.din1
  gfA : t.gfA = s.gfA
  gfB : t.gfB = s.gfB
  gfM : t.gfM = s.gfM
  permIn : t.permIn = s.permIn
  fIn : t.fIn = s.fIn
  sk0 : t.sk0 = s.sk0
  sk1 : t.sk1 = s.sk1
  sk2 : t.sk2 = s.sk2
  keybuf : t.keybuf = s.keybuf
  pcmd : t.pcmd = s.pcmd

theorem State.SameHostRegs.rfl {s : State} : s.SameHostRegs s := by constructor <;> rfl

theorem State.SameHostRegs.complete {s t : State} (h : s.SameHostRegs t) (e : ErrCode) : s.SameHostRegs (t.complete e) :=
  { h with }

theorem effect_sameHostRegs (i : Instr) (s : State) : s.SameHostRegs (effect i s) := by
  cases i <;> exact { State.SameHostRegs.rfl (s := s) with }

theorem effect_initialising (i : Instr) (s : State) : (effect i s).initialising = s.initialising := by
  cases i <;> rfl

/-- No command writes what the host alone writes (R19). -/
theorem exec_sameHostRegs {i : Instr} {s t : State} (h : exec i s = .next t) : s.SameHostRegs t := by
  obtain ⟨-, rfl⟩ | ⟨-, rfl⟩ := exec_next_cases h
  · exact (effect_sameHostRegs i s).complete .ok
  · exact State.SameHostRegs.rfl.complete _

/-- No move of the sequencer writes what the host alone writes (R19). -/
theorem coreMove_sameHostRegs {s t : State} (h : coreMove s = .next t) : s.SameHostRegs t := by
  obtain ⟨-, hm⟩ | ⟨-, -, hm⟩ | ⟨-, -, -, ⟨e, -, hm⟩ | ⟨i, -, hm⟩⟩ | ⟨-, -, hm⟩ := coreMove_cases s <;> rw [hm] at h
  · cases h; exact .rfl
  · cases h; exact { State.SameHostRegs.rfl (s := s) with }
  · cases h; exact State.SameHostRegs.rfl.complete .illegal
  · exact exec_sameHostRegs h
  · cases h; exact .rfl

/-- At the moment of completion a step completes the word in flight, the input consumed (R74). -/
theorem step_atCompletion {s : State} {rest : List Input} (h : s.AtCompletion rest) :
    step s = completePending { s with inputs := rest } := by
  obtain ⟨hrst, hinit, hfl, ⟨hin, rfl⟩ | hin⟩ := h
  · have hs : { s with inputs := [] } = s := by rw [← hin]
    rw [hs, step_nil hin]
    simp [coreMove, hrst, hinit, hfl]
  · simp [step_cons hin, handle, coreMove, hrst, hinit, hfl]

/-- Every completion, of an illegal word too, sets DONE and leaves nothing in flight (R74). -/
theorem completePending_completes {s t : State} (h : completePending s = .next t) : t.done = true ∧ t.inflight = false := by
  cases hd : decode s.pcmd with
  | error e =>
    simp only [completePending, hd, Host.Outcome.next.injEq] at h
    subst h
    exact ⟨rfl, rfl⟩
  | ok i =>
    simp only [completePending, hd] at h
    obtain ⟨u, hu, hfl, hdone, -⟩ := exec_completes i s
    rw [hu] at h
    cases h
    exact ⟨hdone, hfl⟩

end Sys2Proof.Machine
end

section
/-! What a host access changes, and what it answers on an idle core (R16, R19, R53). -/

namespace Sys2Proof.Machine

/-- `t` has `s`'s build, configuration, schedule and KEYED. -/
structure State.SameInstance (s t : State) : Prop where
  cfg : t.cfg = s.cfg
  size : t.size = s.size
  rounds : t.rounds = s.rounds
  keylen : t.keylen = s.keylen
  ks : t.ks = s.ks
  keyed : t.keyed = s.keyed

/-- `t` has `s`'s configuration, schedule, KEYED, result registers and ERR, which the core alone writes (R19), and its
surroundings. -/
structure State.SameCoreRegs (s t : State) : Prop extends s.SameInstance t where
  rst : t.rst = s.rst
  initialising : t.initialising = s.initialising
  err : t.err = s.err
  dout0 : t.dout0 = s.dout0
  dout1 : t.dout1 = s.dout1
  gfRes : t.gfRes = s.gfRes
  permOut : t.permOut = s.permOut
  sboxOut : t.sboxOut = s.sboxOut
  fOut : t.fOut = s.fOut

theorem State.SameCoreRegs.rfl {s : State} : s.SameCoreRegs s := by repeat' constructor

theorem performWrite_sameCoreRegs (r : Reg) (v : Word) (s : State) : s.SameCoreRegs (s.performWrite r v) := by
  cases r <;> exact { State.SameCoreRegs.rfl (s := s) with }

/-- Everything a transfer can do: a read, on the port alone; a blocked write, on OVR and the port; or a performed write. -/
theorem transfer_cases (off : Nat) (k : AccessKind) (s : State) :
    (k = .read ∧ ∃ (reply : Reply) (draws : Nat), s.transfer off k = { s with reply := reply, draws := draws }) ∨
    (∃ v, k = .write v ∧ s.busy = true ∧ (regAt s.cfg off).blockedWhileBusy = true ∧
      s.transfer off k = { s.setOvr with reply := .written }) ∨
    (∃ v, k = .write v ∧ (s.busy = false ∨ (regAt s.cfg off).blockedWhileBusy = false) ∧
      s.transfer off k = { s.performWrite (regAt s.cfg off) v with reply := .written }) := by
  cases k with
  | read => exact .inl ⟨rfl, _, _, transfer_read_frame off s⟩
  | write v =>
    rw [transfer_write]
    obtain ⟨hb, hr, h⟩ | ⟨hr, h⟩ := writeReg_cases (regAt s.cfg off) v s <;> rw [h]
    · exact .inr (.inl ⟨v, rfl, hb, hr, rfl⟩)
    · exact .inr (.inr ⟨v, rfl, hr, rfl⟩)

/-- No transfer writes what the core alone writes (R19). -/
theorem transfer_sameCoreRegs (off : Nat) (k : AccessKind) (s : State) : s.SameCoreRegs (s.transfer off k) := by
  obtain ⟨-, _, _, h⟩ | ⟨v, -, -, -, h⟩ | ⟨v, -, -, h⟩ := transfer_cases off k s <;> rw [h]
  · exact { State.SameCoreRegs.rfl (s := s) with }
  · exact { State.SameCoreRegs.rfl (s := s) with }
  · exact { performWrite_sameCoreRegs (regAt s.cfg off) v s with }

/-- The next state of an access is the error response's or a transfer's. -/
theorem serveAccess_next_cases {a : Access} {s t : State} (h : serveAccess a s = .next t) :
    s.rst = false ∧ (t = { s with reply := .busError } ∨ t = s.transfer (a.addr - s.cfg.base) a.kind) := by
  obtain ⟨-, ha⟩ | ⟨-, -, ha⟩ | ⟨hr, -, -, ha⟩ | ⟨hr, -, -, ha⟩ := serveAccess_cases a s <;> rw [ha] at h <;> cases h
  · exact ⟨hr, .inl rfl⟩
  · exact ⟨hr, .inr rfl⟩

/-- An idle core answers a read with the register's value (R17, R18). -/
theorem transfer_read_idle (off : Nat) {s : State} (h : s.busy = false) :
    s.transfer off .read = { s with reply := .data (s.regValue (regAt s.cfg off)) } := by
  simp [State.transfer, State.readReg, h]

/-- An idle core performs every write (R149). -/
theorem transfer_write_idle (off : Nat) (v : Word) {s : State} (h : s.busy = false) :
    s.transfer off (.write v) = { s.performWrite (regAt s.cfg off) v with reply := .written } := by
  simp [transfer_write, State.writeReg, h]

end Sys2Proof.Machine
end

section
/-! The invariant: it holds at reset, and the inputs, the accesses, the commands and the sequencer keep it. -/

namespace Sys2Proof.Machine

/-- A core out of reset that has the configuration, schedule and KEYED of a state of the invariant. -/
theorem State.Inv.of_sameInstance {s t : State} (h : s.Inv) (hi : s.SameInstance t)
    (hbuf : t.keybuf.wf t.cfg.keybufBytes = true) (hflight : t.inflight = true → t.done = false)
    (hinit : t.initialising = true → t.inflight = false ∧ t.done = false ∧ t.err = .ok ∧ t.keyed = false)
    (hrst : t.rst = false) : t.Inv where
  keybuf_wf := hbuf
  ks_wf := by rw [hi.ks, hi.rounds]; exact h.ks_wf
  level := by simpa only [State.Thin, State.NLevel, hi.cfg, hi.size, hi.rounds, hi.keylen] using h.level
  unkeyed := by rw [hi.ks, hi.keyed]; exact h.unkeyed
  inflight := hflight
  init := hinit
  reset := by simp [hrst]

/-- The reset state at either level of the reset input, with any inputs pending. -/
theorem inv_resetOf (p : Params) (level : Bool) (inputs : List Input) (draws : Nat) :
    State.Inv { State.resetOf p with rst := level, inputs := inputs, draws := draws } where
  keybuf_wf := rfl
  ks_wf := rfl
  level := .inl ⟨rfl, rfl, rfl⟩
  unkeyed := fun _ => rfl
  inflight := fun h => nomatch h
  init := fun _ => ⟨rfl, rfl, rfl, rfl⟩
  reset := fun h => by cases h; rfl

/-- What is pending outside the core is no part of the invariant. -/
theorem State.Inv.setInputs {s : State} (h : s.Inv) (inputs : List Input) : State.Inv { s with inputs := inputs } where
  keybuf_wf := h.keybuf_wf
  ks_wf := h.ks_wf
  level := h.level
  unkeyed := h.unkeyed
  inflight := h.inflight
  init := h.init
  reset := fun hr => congrArg (fun u : State => { u with inputs := inputs }) (h.reset hr)

/-- The reset input keeps the invariant (R146). -/
theorem State.Inv.setRst {s : State} (h : s.Inv) (level : Bool) : (s.setRst level).Inv := by
  obtain ⟨-, hs⟩ | ⟨-, -, hs⟩ := setRst_cases level s <;> rw [hs]
  · exact inv_resetOf s.cfg level s.inputs s.draws
  · exact h

/-- The port's response and the count of free values are no part of the invariant of a core out of reset. -/
theorem State.Inv.setReply {s : State} (h : s.Inv) (hr : s.rst = false) (reply : Reply) (draws : Nat) :
    State.Inv { s with reply := reply, draws := draws } :=
  h.of_sameInstance ⟨rfl, rfl, rfl, rfl, rfl, rfl⟩ h.keybuf_wf h.inflight h.init hr

/-! Accesses. -/

/-- A performed write to a register the map has keeps the invariant: CMD takes one only on an idle core (R73), KEYBUF's words are
its own (R44), and acknowledging DONE leaves it 0. -/
theorem State.Inv.performWrite {s : State} {r : Reg} (h : s.Inv) (hr : s.rst = false) (v : Word)
    (hfree : s.busy = false ∨ r.blockedWhileBusy = false) (hword : ∀ w, r = .keybuf w → 4 * w + 3 < s.cfg.keybufBytes) :
    (s.performWrite r v).Inv := by
  cases r with
  | cmd =>
    have hidle : s.initialising = false := by
      have hbusy : s.busy = false := hfree.resolve_right (by decide)
      simp only [State.busy, Bool.or_eq_false_iff] at hbusy
      exact hbusy.2
    exact h.of_sameInstance ⟨rfl, rfl, rfl, rfl, rfl, rfl⟩ h.keybuf_wf (fun _ => rfl)
      (fun hi => absurd (hidle.symm.trans hi) (by decide)) hr
  | status =>
    refine h.of_sameInstance ⟨rfl, rfl, rfl, rfl, rfl, rfl⟩ h.keybuf_wf (fun hf => ?_) (fun hi => ?_) hr
    · show (s.done && !v.getLsbD 1) = false
      rw [h.inflight hf, Bool.false_and]
    · obtain ⟨hf, hd, he, hk⟩ := h.init hi
      refine ⟨hf, ?_, he, hk⟩
      show (s.done && !v.getLsbD 1) = false
      rw [hd, Bool.false_and]
  | keybuf w =>
    exact h.of_sameInstance ⟨rfl, rfl, rfl, rfl, rfl, rfl⟩ (writeKeyWord_wf v (hword w rfl) h.keybuf_wf) h.inflight h.init hr
  | _ => exact h.of_sameInstance ⟨rfl, rfl, rfl, rfl, rfl, rfl⟩ h.keybuf_wf h.inflight h.init hr

/-- A transfer keeps the invariant. -/
theorem State.Inv.transfer {s : State} (h : s.Inv) (hr : s.rst = false) (off : Nat) (k : AccessKind) :
    (s.transfer off k).Inv := by
  obtain ⟨-, reply, draws, ht⟩ | ⟨v, -, -, -, ht⟩ | ⟨v, -, hfree, ht⟩ := transfer_cases off k s <;> rw [ht]
  · exact h.setReply hr reply draws
  · exact h.of_sameInstance ⟨rfl, rfl, rfl, rfl, rfl, rfl⟩ h.keybuf_wf h.inflight h.init hr
  · have hw := h.performWrite hr v hfree fun w hw => regAt_keybuf hw
    obtain ⟨-, -, hr', -, -⟩ := performWrite_frame (regAt s.cfg off) v s
    exact hw.setReply (hr'.trans hr) .written _

/-- An access that is answered keeps the invariant. -/
theorem State.Inv.serveAccess {a : Access} {s t : State} (h : s.Inv) (ha : serveAccess a s = .next t) : t.Inv := by
  obtain ⟨hr, rfl | rfl⟩ := serveAccess_next_cases ha
  · exact h.setReply hr .busError _
  · exact h.transfer hr _ a.kind

/-! Commands. -/

/-- R81's configuration of a level the core accepts (R34). -/
theorem configure_level {n : Nat} {s : State} (h16 : n < 2 ^ 16) (hn : n ≤ s.cfg.nMax) :
    (s.configure (levelConfig n)).Thin ∨ (s.configure (levelConfig n)).NLevel := by
  obtain rfl | hpos := Nat.eq_zero_or_pos n
  · exact .inl ⟨rfl, rfl, rfl⟩
  · have hsize : (BitVec.ofNat 32 n).toNat = n := Nat.mod_eq_of_lt (by omega)
    have hrounds : (BitVec.ofNat 32 (16 * n)).toNat = 16 * n := Nat.mod_eq_of_lt (by omega)
    have hkeylen : (BitVec.ofNat 32 (8 * n)).toNat = 8 * n := Nat.mod_eq_of_lt (by omega)
    right
    simp only [State.NLevel, configure_size, configure_rounds, configure_keylen, configure_cfg, levelConfig,
      if_neg hpos.ne', hsize, hrounds, hkeylen]
    exact ⟨hpos, hn, trivial, trivial⟩

/-- The schedule SETKEY builds is in canonical form, below ROUNDS (R105, R106). -/
theorem State.Inv.buildSchedule_wf {s : State} (h : s.Inv) : s.buildSchedule.wf s.rounds.toNat = true := by
  obtain hthin | hlevel := h.level
  · have hrounds := hthin.rounds_toNat
    obtain ⟨-, h8, -⟩ := hthin
    rw [State.buildSchedule, if_pos h8]
    exact setKeyThin_wf s.keyByte hrounds.ge h.ks_wf
  · rw [State.buildSchedule, if_neg hlevel.rounds_ne_eight]
    obtain ⟨-, -, hrounds, -⟩ := hlevel
    have hks := h.ks_wf
    rw [hrounds] at hks ⊢
    exact setKeyLevel_wf s.keyByte s.size.toNat hks

/-- The effect of a successful command keeps the invariant of an initialised core out of reset: CONFIG by R81, SETKEY by the
form of the schedule it builds; the rest leave the configuration, the schedule and KEYED. -/
theorem State.Inv.effect {i : Instr} {s : State} (h : s.Inv) (hr : s.rst = false) (hinit : s.initialising = false)
    (hok : completionCode i s = .ok) : (effect i s).Inv := by
  have hquiet : ∀ {P : Prop}, s.initialising = true → P := fun hi => absurd (hinit.symm.trans hi) (by decide)
  cases i with
  | config n =>
    have hn : n.toNat ≤ s.cfg.nMax := by
      simp only [completionCode, ite_eq_right_iff, reduceCtorEq, imp_false, not_lt] at hok
      exact hok
    exact
      { keybuf_wf := h.keybuf_wf
        ks_wf := rfl
        level := configure_level n.isLt hn
        unkeyed := fun _ => rfl
        inflight := h.inflight
        init := hquiet
        reset := fun hr' => absurd (hr.symm.trans hr') (by decide) }
  | setkey len =>
    exact
      { keybuf_wf := h.keybuf_wf
        ks_wf := Schedule.replaceBelow_wf h.buildSchedule_wf h.ks_wf
        level := h.level
        unkeyed := fun hk => nomatch hk
        inflight := h.inflight
        init := hquiet
        reset := fun hr' => absurd (hr.symm.trans hr') (by decide) }
  | _ => exact h.of_sameInstance ⟨rfl, rfl, rfl, rfl, rfl, rfl⟩ h.keybuf_wf h.inflight hquiet hr

/-- A completion keeps the invariant of an initialised core out of reset. -/
theorem State.Inv.complete {s : State} (h : s.Inv) (hr : s.rst = false) (hinit : s.initialising = false) (e : ErrCode) :
    (s.complete e).Inv :=
  h.of_sameInstance ⟨rfl, rfl, rfl, rfl, rfl, rfl⟩ h.keybuf_wf (fun hf => nomatch hf)
    (fun hi => absurd (hinit.symm.trans hi) (by decide)) hr

/-- Every command keeps the invariant of an initialised core out of reset. -/
theorem State.Inv.exec {i : Instr} {s t : State} (h : s.Inv) (hr : s.rst = false) (hinit : s.initialising = false)
    (he : exec i s = .next t) : t.Inv := by
  obtain ⟨hok, rfl⟩ | ⟨-, rfl⟩ := exec_next_cases he
  · exact (h.effect hr hinit hok).complete ((effect_sameHostRegs i s).rst.trans hr)
      ((effect_initialising i s).trans hinit) .ok
  · exact h.complete hr hinit _

/-- The sequencer's moves keep the invariant. -/
theorem State.Inv.coreMove {s t : State} (h : s.Inv) (hm : coreMove s = .next t) : t.Inv := by
  obtain ⟨-, hs⟩ | ⟨hr, -, hs⟩ | ⟨hr, hinit, -, ⟨e, -, hs⟩ | ⟨i, -, hs⟩⟩ | ⟨-, -, hs⟩ := coreMove_cases s <;> rw [hs] at hm
  · cases hm; exact h
  · cases hm
    exact h.of_sameInstance ⟨rfl, rfl, rfl, rfl, rfl, rfl⟩ h.keybuf_wf h.inflight (fun hi => nomatch hi) hr
  · cases hm; exact h.complete hr hinit .illegal
  · exact h.exec hr hinit hm
  · cases hm; exact h

/-- Settles O49: each kind of input, and the sequencer's move, keeps the invariant. -/
theorem everyStepKeepsTheInvariant : Obligations.EveryStepKeepsTheInvariant := by
  intro s t h hstep
  obtain ⟨-, hs⟩ | ⟨a, rest, -, hs⟩ | ⟨rest, -, hs⟩ | ⟨level, rest, -, hs⟩ := step_cases s <;> rw [hs] at hstep
  · exact h.coreMove hstep
  · exact (h.setInputs rest).serveAccess hstep
  · exact (h.setInputs rest).coreMove hstep
  · cases hstep; exact (h.setInputs rest).setRst level

/-- Settles O48: the reset state is that of the reset input's deassertion with nothing pending. -/
theorem invariantHoldsAtReset : Obligations.InvariantHoldsAtReset :=
  fun p => inv_resetOf p false [] 0

end Sys2Proof.Machine
end

section
/-! Who writes what: the frames of the commands, the sequencer and the host's accesses (R19). -/

namespace Sys2Proof.Machine

theorem setRst_cfg (level : Bool) (s : State) : (s.setRst level).cfg = s.cfg := by
  obtain ⟨-, h⟩ | ⟨-, -, h⟩ := setRst_cases level s
  · rw [h]; rfl
  · rw [h]

/-- A step of any kind leaves the parameters of the build. -/
theorem step_cfg {s t : State} (h : step s = .next t) : t.cfg = s.cfg := by
  obtain ⟨-, hs⟩ | ⟨a, rest, -, hs⟩ | ⟨rest, -, hs⟩ | ⟨level, rest, -, hs⟩ := step_cases s <;> rw [hs] at h
  · exact (coreMove_sameHostRegs h).cfg
  · obtain ⟨-, rfl | rfl⟩ := serveAccess_next_cases h
    · rfl
    · exact (transfer_sameCoreRegs _ a.kind _).cfg
  · exact (coreMove_sameHostRegs h).cfg
  · cases h
    exact setRst_cfg level { s with inputs := rest }

/-- No access writes what the core alone writes (R19). -/
theorem serveAccess_sameCoreRegs {a : Access} {s t : State} (h : serveAccess a s = .next t) : s.SameCoreRegs t := by
  obtain ⟨-, rfl | rfl⟩ := serveAccess_next_cases h
  · exact { State.SameCoreRegs.rfl (s := s) with }
  · exact transfer_sameCoreRegs _ a.kind s

/-- Settles O51, from what a step, the sequencer and an access leave unchanged. -/
theorem operandsAreTheHostsResultsTheCores : Obligations.OperandsAreTheHostsResultsTheCores := by
  refine ⟨fun s t => step_cfg, fun s t h => ?_, fun s t a h => ?_⟩
  · have hsame := coreMove_sameHostRegs h
    exact ⟨hsame.din0, hsame.din1, hsame.gfA, hsame.gfB, hsame.gfM, hsame.permIn, hsame.fIn, hsame.sk0, hsame.sk1,
      hsame.sk2, hsame.keybuf, hsame.ie⟩
  · have hsame := serveAccess_sameCoreRegs h
    exact ⟨hsame.dout0, hsame.dout1, hsame.gfRes, hsame.permOut, hsame.sboxOut, hsame.fOut, hsame.size, hsame.rounds,
      hsame.keylen, hsame.ks⟩

theorem State.SameHostRegs.keyByte {s t : State} (h : s.SameHostRegs t) (k : Nat) : t.keyByte k = s.keyByte k := by
  rw [State.keyByte, State.keyByte, h.keybuf]

/-- Settles O31: the effect of each of these commands is on its own result registers, and a failure is on the status alone. -/
theorem resultCommandsChangeOnlyTheirResult : Obligations.ResultCommandsChangeOnlyTheirResult := by
  intro s t i h
  have hkeys := (exec_sameHostRegs h).keyByte
  obtain ⟨-, rfl⟩ | ⟨-, rfl⟩ := exec_next_cases h
  · refine ⟨?_, ?_, ?_, ?_, ?_, ?_, hkeys⟩
    · rintro (rfl | rfl) <;> rfl
    · rintro rfl; rfl
    · rintro ⟨c, index, rfl⟩; rfl
    · rintro rfl; rfl
    · rintro ⟨len, rfl | rfl⟩ <;> rfl
    · rintro rfl; rfl
  · exact ⟨fun _ => rfl, fun _ => rfl, fun _ => rfl, fun _ => rfl, fun _ => rfl, fun _ => rfl, hkeys⟩

/-- Settles O32: CONFIG's and SETKEY's effects are on the configuration, the schedule and KEYED, and a failure is on the status
alone. -/
theorem instanceCommandsChangeOnlyTheInstance : Obligations.InstanceCommandsChangeOnlyTheInstance := by
  refine fun s t => ⟨fun n h => ⟨?_, (exec_sameHostRegs h).keyByte⟩, fun len h => ⟨?_, (exec_sameHostRegs h).keyByte⟩⟩
  · obtain ⟨-, rfl⟩ | ⟨-, rfl⟩ := exec_next_cases h <;> rfl
  · obtain ⟨-, rfl⟩ | ⟨-, rfl⟩ := exec_next_cases h <;> rfl

end Sys2Proof.Machine
end

section
/-! The keys are visible to ENCRYPT and DECRYPT alone (R139). -/

namespace Sys2Proof.Machine

/-- The state with another key buffer and another schedule. -/
def State.withKeys (buf : Memory) (ks : Schedule) (s : State) : State := { s with keybuf := buf, ks := ks }

theorem agreeButKeys_withKeys (buf : Memory) (ks : Schedule) (s : State) : s.AgreeButKeys (s.withKeys buf ks) := rfl

@[simp] theorem withKeys_busy (buf : Memory) (ks : Schedule) (s : State) : (s.withKeys buf ks).busy = s.busy := rfl

@[simp] theorem withKeys_cfg (buf : Memory) (ks : Schedule) (s : State) : (s.withKeys buf ks).cfg = s.cfg := rfl

/-- No register shows a key: KEYBUF reads 0 (R44), and KS is not in the map. -/
@[simp] theorem regValue_withKeys (buf : Memory) (ks : Schedule) (s : State) (r : Reg) :
    (s.withKeys buf ks).regValue r = s.regValue r := by
  cases r <;> rfl

/-- A performed write does the same but for the key buffer and the schedule. -/
theorem performWrite_withKeys (buf : Memory) (ks : Schedule) (s : State) (r : Reg) (v : Word) :
    ∃ buf', (s.withKeys buf ks).performWrite r v = (s.performWrite r v).withKeys buf' ks := by
  cases r <;> exact ⟨_, rfl⟩

/-- A read gives the same value and changes the same. -/
theorem readReg_withKeys (buf : Memory) (ks : Schedule) (s : State) (r : Reg) :
    (s.withKeys buf ks).readReg r = ((s.readReg r).1, (s.readReg r).2.withKeys buf ks) := by
  simp only [State.readReg, withKeys_busy, regValue_withKeys]
  split <;> rfl

/-- A write does the same but for the key buffer and the schedule, and is blocked alike. -/
theorem writeReg_withKeys (buf : Memory) (ks : Schedule) (s : State) (r : Reg) (v : Word) :
    ∃ buf', (s.withKeys buf ks).writeReg r v = (s.writeReg r v).withKeys buf' ks := by
  by_cases hblocked : (s.busy && r.blockedWhileBusy) = true
  · refine ⟨buf, ?_⟩
    rw [State.writeReg, State.writeReg, withKeys_busy, if_pos hblocked, if_pos hblocked]
    rfl
  · rw [State.writeReg, State.writeReg, withKeys_busy, if_neg hblocked, if_neg hblocked]
    exact performWrite_withKeys buf ks s r v

/-- Two cores that agree but for the keys answer an access alike, and stay so. -/
theorem transfer_withKeys (buf : Memory) (ks : Schedule) (s : State) (off : Nat) (k : AccessKind) :
    (s.transfer off k).AgreeButKeys ((s.withKeys buf ks).transfer off k) := by
  cases k with
  | read =>
    simp only [State.transfer, withKeys_cfg, readReg_withKeys]
    rfl
  | write v =>
    obtain ⟨buf', hw⟩ := writeReg_withKeys buf ks s (regAt s.cfg off) v
    simp only [transfer_write, withKeys_cfg, hw]
    rfl

@[simp] theorem completionCode_withKeys (buf : Memory) (ks : Schedule) (s : State) (i : Instr) :
    completionCode i (s.withKeys buf ks) = completionCode i s := by
  cases i <;> rfl

/-- The eight other commands do the same but for the key buffer and the schedule. -/
theorem effect_withKeys (buf : Memory) (ks : Schedule) (s : State) {i : Instr}
    (hi : ∀ len, i ≠ .encrypt len ∧ i ≠ .decrypt len) :
    (effect i s).AgreeButKeys (effect i (s.withKeys buf ks)) := by
  cases i with
  | encrypt len => exact absurd rfl (hi len).1
  | decrypt len => exact absurd rfl (hi len).2
  | _ => rfl

theorem State.AgreeButKeys.complete {s t : State} (h : s.AgreeButKeys t) (e : ErrCode) :
    (s.complete e).AgreeButKeys (t.complete e) :=
  congrArg (State.complete e) h

/-- Settles O55: registers show no key, and the other commands' codes and results read none. -/
theorem onlyBlockCommandsRevealTheKeys : Obligations.OnlyBlockCommandsRevealTheKeys := by
  intro s t h
  obtain ⟨buf, ks, rfl⟩ : ∃ buf ks, t = s.withKeys buf ks := ⟨_, _, h⟩
  refine ⟨transfer_withKeys buf ks s, fun i hi => ⟨_, _, exec_eq i s, exec_eq i _, ?_⟩⟩
  rw [completionCode_withKeys]
  split
  · exact (effect_withKeys buf ks s hi).complete .ok
  · exact (agreeButKeys_withKeys buf ks s).complete _

end Sys2Proof.Machine
end

section
/-! The reset values, CONFIG 0, and the reset input (R50, R146). -/

namespace Sys2Proof.Machine

/-- Every build accepts level 0. -/
theorem exec_config_zero (s : State) : exec (.config 0) s = .next ((s.configure (levelConfig 0)).complete .ok) := by
  have hle : ¬ s.cfg.nMax < (0 : BitVec 16).toNat := Nat.not_lt_zero _
  rw [exec_config, if_neg hle]
  rfl

/-- Settles O5: each value is the reset state's field, and CONFIG 0 writes those the core already has. -/
theorem resetLeavesTheSpecValues : Obligations.ResetLeavesTheSpecValues := by
  rintro p _ rfl
  have hbusy : (State.resetOf p).busy = true ↔ 0 < p.initLat := decide_eq_true_iff
  have hconfig : exec (.config 0) (State.resetOf p) =
      .next { State.resetOf p with err := .ok, done := true, inflight := false } := exec_config_zero _
  refine ⟨hbusy, rfl, rfl, rfl, rfl, rfl, rfl, rfl, rfl, rfl, rfl, rfl, rfl, rfl, rfl, rfl, rfl, ?_⟩
  exact ⟨rfl, rfl, rfl, rfl, rfl, rfl, rfl, rfl, rfl, rfl, rfl, rfl, fun _ => rfl, fun _ => rfl, rfl, fun _ _ => rfl, hconfig⟩

/-- Settles O45: the reset input's edges give the reset state whatever the core holds, and CONFIG 0 writes the configuration, the
schedule and KEYED alone. -/
theorem resetInputRestoresTheResetState : Obligations.ResetInputRestoresTheResetState := by
  refine ⟨fun s rest hin => ?_, fun s rest hr hin => ?_, fun s a rest hr hin => ?_, fun s hr => ?_, fun s => ?_⟩
  · rw [step_cons hin]; rfl
  · simp only [step_cons hin, handle, State.setRst, hr, Bool.or_true, if_true]
    rfl
  · simp [step_cons hin, handle, serveAccess, hr]
  · simp [coreMove, hr]
  · refine ⟨_, exec_config_zero s, ?_⟩
    simp [levelConfig]

end Sys2Proof.Machine
end

section
/-! The flags of STATUS and the interrupt (R24 to R27, R49). -/

namespace Sys2Proof.Machine

/-- A write that BUSY does not block is performed. -/
theorem transfer_write_performed {off : Nat} {s : State} (v : Word)
    (h : s.busy = false ∨ (regAt s.cfg off).blockedWhileBusy = false) :
    s.transfer off (.write v) = { s.performWrite (regAt s.cfg off) v with reply := .written } := by
  obtain hb | hr := h
  · exact transfer_write_idle off v hb
  · simp [transfer_write, State.writeReg, hr]

/-- STATUS takes a write at any time. -/
theorem transfer_write_status (v : Word) (s : State) :
    s.transfer 0x004 (.write v) = { s.writeStatus v with reply := .written } :=
  transfer_write_performed (off := 0x004) v (.inr rfl)

/-- CTRL takes a write at any time. -/
theorem transfer_write_ctrl (v : Word) (s : State) :
    s.transfer 0x008 (.write v) = { s.writeCtrl v with reply := .written } :=
  transfer_write_performed (off := 0x008) v (.inr rfl)

/-- An idle core accepts what is written to CMD (R73). -/
theorem transfer_write_cmd (v : Word) {s : State} (h : s.busy = false) :
    s.transfer 0x000 (.write v) = { s.accept v with reply := .written } :=
  transfer_write_idle 0x000 v h

/-- A performed write changes OVR at STATUS alone. -/
theorem performWrite_ovr (r : Reg) (v : Word) (s : State) :
    (s.performWrite r v).ovr = if r = .status ∧ v.getLsbD 2 = true then false else s.ovr := by
  cases r with
  | status =>
    show (s.ovr && !v.getLsbD 2) = _
    cases v.getLsbD 2 <;> simp
  | _ => rfl

/-- Settles O33, from the sequencer's frame and the three kinds of transfer. -/
theorem overrunFlagFollowsItsRule : Obligations.OverrunFlagFollowsItsRule := by
  refine ⟨fun p => rfl, fun s t h => (coreMove_sameHostRegs h).ovr, fun s off => ?_, fun s off v => ?_⟩
  · rw [transfer_read_frame]
  · by_cases hb : s.busy = true ∧ (regAt s.cfg off).blockedWhileBusy = true
    · obtain ⟨hbusy, hblocked⟩ := hb
      simp [transfer_write, State.writeReg, hbusy, hblocked]
    · have hfree : s.busy = false ∨ (regAt s.cfg off).blockedWhileBusy = false := by
        simpa [-not_and, not_and_or] using hb
      rw [transfer_write_performed v hfree, if_neg hb]
      exact performWrite_ovr _ v s

/-- The sequencer writes ERR at a completion alone (R27). -/
theorem coreMove_err {s t : State} (h : coreMove s = .next t) (herr : t.err ≠ s.err) :
    s.inflight = true ∧ t.inflight = false ∧ t.done = true := by
  obtain ⟨-, hm⟩ | ⟨-, -, hm⟩ | ⟨-, -, hfl, ⟨e, -, hm⟩ | ⟨i, -, hm⟩⟩ | ⟨-, -, hm⟩ := coreMove_cases s <;> rw [hm] at h
  · cases h; exact absurd rfl herr
  · cases h; exact absurd rfl herr
  · cases h; exact ⟨hfl, rfl, rfl⟩
  · obtain ⟨u, hu, hidle, hdone, -⟩ := exec_completes i s
    rw [hu] at h
    cases h
    exact ⟨hfl, hidle, hdone⟩
  · cases h; exact absurd rfl herr

/-- Settles O34, from the completion, the acceptance and the write to STATUS. -/
theorem doneAndErrorFollowTheirRules : Obligations.DoneAndErrorFollowTheirRules := by
  refine ⟨fun p => ⟨rfl, rfl⟩, fun s t rest hat h => ?_, fun s v h => ?_, fun s v => ?_,
    fun s off k => (transfer_sameCoreRegs off k s).err, fun s t => coreMove_err⟩
  · rw [step_atCompletion hat] at h
    exact (completePending_completes h).1
  · rw [transfer_write_cmd v h]
    rfl
  · rw [transfer_write_status]
    show (s.done && !v.getLsbD 1) = _
    cases v.getLsbD 1 <;> simp

/-- ENCRYPT and DECRYPT do not look at KEYED (R118). -/
theorem exec_block_ignores_keyed (s : State) (b : Bool) (len : BitVec 16) :
    ∃ t u, exec (.encrypt len) s = .next t ∧
      exec (.encrypt len) { s with keyed := b } = .next { t with keyed := b } ∧ exec (.decrypt len) s = .next u ∧
      exec (.decrypt len) { s with keyed := b } = .next { u with keyed := b } := by
  refine ⟨_, _, exec_encrypt len s, ?_, exec_decrypt len s, ?_⟩
  · rw [exec_encrypt]
    cases isBlockLength len <;> rfl
  · rw [exec_decrypt]
    cases isBlockLength len <;> rfl

/-- An illegal word in flight leaves KEYED (R26, R132). -/
theorem coreMove_illegal_keyed {s t : State} {e : Illegal} (hd : decode s.pcmd = .error e) (h : coreMove s = .next t) :
    t.keyed = s.keyed := by
  obtain ⟨-, hm⟩ | ⟨-, -, hm⟩ | ⟨-, -, -, ⟨-, -, hm⟩ | ⟨i, hi, -⟩⟩ | ⟨-, -, hm⟩ := coreMove_cases s
  · rw [hm] at h; cases h; rfl
  · rw [hm] at h; cases h; rfl
  · rw [hm] at h; cases h; rfl
  · rw [hd] at hi; cases hi
  · rw [hm] at h; cases h; rfl

/-- Settles O35, from the commands' effects and the frames of an illegal word and of an access. -/
theorem keyedFlagFollowsItsRule : Obligations.KeyedFlagFollowsItsRule := by
  refine ⟨fun p => rfl, fun i s t h => ?_, fun s t e hd h => coreMove_illegal_keyed hd h,
    fun s off k => (transfer_sameCoreRegs off k s).keyed, exec_block_ignores_keyed⟩
  obtain ⟨-, rfl⟩ | ⟨hfail, rfl⟩ := exec_next_cases h
  · cases i <;> rfl
  · exact (if_neg hfail).symm

/-- Settles O36: each clause is what becomes of DONE and of IE. -/
theorem interruptIsDoneAndEnabled : Obligations.InterruptIsDoneAndEnabled := by
  refine ⟨fun s => rfl, fun p => rfl, fun i s t h => ?_, fun s v => ⟨fun hv => ?_, fun hb => ?_, fun hv => ?_⟩, fun s => rfl⟩
  · have hie := (exec_sameHostRegs h).ie
    obtain ⟨u, hu, -, hdone, -⟩ := exec_completes i s
    rw [h] at hu
    cases hu
    rw [State.irq, hdone, hie, Bool.true_and]
  · simp [transfer_write_status, State.irq, hv]
  · simp [transfer_write_cmd v hb, State.irq]
  · rw [transfer_write_ctrl]
    refine ⟨?_, rfl⟩
    show (s.done && v.getLsbD 0) = false
    rw [hv, Bool.and_false]

end Sys2Proof.Machine
end

section
/-! The register interface: narrow registers, the map's offsets, the key buffer's words (R17, R18, R43 to R45). -/

namespace Sys2Proof.Machine

/-- An aligned 32-bit access in the aperture is a transfer (R53). -/
theorem serveAccess_aligned {s : State} {off : Nat} (k : AccessKind) (hr : s.rst = false) (h4 : off % 4 = 0)
    (hoff : off < s.cfg.apertureBytes) : serveAccess ⟨s.cfg.base + off, 4, k⟩ s = .next (s.transfer off k) := by
  have hbase := base_aligned s.cfg
  have hin : inAperture s.cfg (s.cfg.base + off) = true := by
    simp only [inAperture, decide_eq_true_eq]
    omega
  have hserved : (⟨s.cfg.base + off, 4, k⟩ : Access).served = true := by
    simp only [Access.served, decide_eq_true_eq]
    exact ⟨trivial, by omega⟩
  simp [serveAccess, hr, hin, hserved]

/-- Neither the gap below KEYBUF nor the offsets above its last word hold a register (R43). -/
theorem regAt_reserved {p : Params} {off : Nat} (h : (0x060 ≤ off ∧ off ≤ 0x0FC) ∨ 0x100 + p.keybufBytes ≤ off) :
    regAt p off = .reserved := by
  have hlow : ¬ off < 0x060 := by omega
  have hbuf : ¬ (0x100 ≤ off ∧ off < 0x100 + p.keybufBytes) := by omega
  rw [regAt, if_neg hlow, if_neg hbuf]

/-- Settles O43: a reserved offset is read as 0 and never blocked. -/
theorem reservedOffsetsReadZeroIgnoreWrites : Obligations.ReservedOffsetsReadZeroIgnoreWrites := by
  intro s off h4 hoff hr hres
  have hreg := regAt_reserved hres
  refine ⟨?_, fun v => ?_⟩
  · rw [serveAccess_aligned .read hr h4 hoff]
    simp [State.transfer, hreg, State.readReg, Reg.unspecifiedWhileBusy, State.regValue]
  · rw [serveAccess_aligned (.write v) hr h4 hoff, transfer_write_performed v (.inr (by rw [hreg]; rfl)), hreg]
    rfl

/-- An idle core out of reset answers a read at a register's offset with its value. -/
theorem serveAccess_read_idle {s : State} {r : Reg} (hr : s.rst = false) (hb : s.busy = false) (h : r.exists s.cfg) :
    serveAccess ⟨s.cfg.base + r.offset, 4, .read⟩ s = .next { s with reply := .data (s.regValue r) } := by
  rw [serveAccess_reg r .read s hr h, transfer_read_idle _ hb, regAt_offset s.cfg r h]

theorem lowRegs_exist {p : Params} {r : Reg} (h : r ∈ lowRegs) : r.exists p := by
  cases r with
  | keybuf w => simp [lowRegs] at h
  | _ => trivial

/-- Settles O44: the list is the low registers' offsets with their values, and KEYBUF's words read 0. -/
theorem registerMapAnswersAtItsOffsets : Obligations.RegisterMapAnswersAtItsOffsets := by
  intro s hr hb
  refine ⟨fun e he => ?_, fun w hw => ?_⟩
  · have he : e ∈ lowRegs.map fun r => (r.offset, s.regValue r) := he
    obtain ⟨r, hmem, rfl⟩ := List.mem_map.mp he
    exact serveAccess_read_idle hr hb (lowRegs_exist hmem)
  · rw [Nat.add_assoc]
    exact serveAccess_read_idle (r := .keybuf w) hr hb hw

/-! Narrow registers. -/

/-- No write but one to CMD changes BUSY. -/
theorem performWrite_busy {r : Reg} (v : Word) (s : State) (h : r ≠ .cmd) : (s.performWrite r v).busy = s.busy := by
  cases r with
  | cmd => exact absurd rfl h
  | _ => rfl

theorem regValue_setReply (s : State) (reply : Reply) (r : Reg) :
    State.regValue { s with reply := reply } r = s.regValue r := by
  cases r <;> rfl

/-- What a read answers after a write to the same register of an idle core. -/
theorem transfer_write_read_idle {off : Nat} {s : State} (v : Word) (hb : s.busy = false) (h : regAt s.cfg off ≠ .cmd) :
    ((s.transfer off (.write v)).transfer off .read).reply =
      .data ((s.performWrite (regAt s.cfg off) v).regValue (regAt s.cfg off)) := by
  have hw := transfer_write_idle off v hb
  have hbusy : (s.transfer off (.write v)).busy = false := by
    rw [hw]
    exact (performWrite_busy v s h).trans hb
  rw [transfer_read_idle off hbusy, (transfer_sameCoreRegs off (.write v) s).cfg, hw, regValue_setReply]

/-- A word cut to its low `n` bits and read back is the word masked to them (R18). -/
theorem setWidth_setWidth_eq_and (n : Nat) (hn : n ≤ 32) (v : Word) :
    (v.setWidth n).setWidth 32 = v &&& BitVec.ofNat 32 (2 ^ n - 1) := by
  have hpow : 2 ^ n ≤ 2 ^ 32 := Nat.pow_le_pow_right (by decide) hn
  have hpos : 0 < 2 ^ n := Nat.two_pow_pos n
  apply BitVec.eq_of_toNat_eq
  rw [BitVec.toNat_and, BitVec.toNat_ofNat, Nat.mod_eq_of_lt (by omega : 2 ^ n - 1 < 2 ^ 32),
    Nat.and_two_pow_sub_one_eq_mod, BitVec.toNat_setWidth, BitVec.toNat_setWidth]
  exact Nat.mod_eq_of_lt ((Nat.mod_lt _ hpos).trans_le hpow)

/-- A word whose bits from 8 upward are 0 has nothing left outside the low byte. -/
theorem and_not_lowByte_eq_zero {v : Word} (h : ∀ i, 8 ≤ i → v.getLsbD i = false) : v &&& ~~~ 0xFF = 0 := by
  have hlow : ∀ i < 8, (0xFF : Word).getLsbD i = true := by decide
  apply BitVec.eq_of_getLsbD_eq
  intro i hi
  by_cases h8 : i < 8
  · rw [BitVec.getLsbD_and, BitVec.getLsbD_not, hlow i h8]
    simp
  · simp [h i (Nat.le_of_not_lt h8)]

/-- STATUS has no bit above 7 (R22). -/
theorem statusWord_getLsbD_of_ge (s : State) {i : Nat} (h : 8 ≤ i) : s.statusWord.getLsbD i = false := by
  simp only [State.statusWord, BitVec.getLsbD_append]
  rw [if_neg (by omega), if_neg (by omega), if_neg (by omega), if_neg (by omega), if_neg (by omega)]
  exact BitVec.getLsbD_zero

/-- Settles O37: each narrow register keeps its low bits, and STATUS looks at bits 1 and 2 alone. -/
theorem narrowRegistersKeepTheirBits : Obligations.NarrowRegistersKeepTheirBits := by
  refine ⟨fun s v hb => ?_, fun s => ⟨?_, ?_⟩, fun s v => ?_⟩
  · have hread : ∀ r : Reg, r.exists s.cfg → r ≠ .cmd →
        ((s.transfer r.offset (.write v)).transfer r.offset .read).reply = .data ((s.performWrite r v).regValue r) := by
      intro r hr hcmd
      have hoff := regAt_offset s.cfg r hr
      have h := transfer_write_read_idle (off := r.offset) v hb (by rwa [hoff])
      rwa [hoff] at h
    have hmask := fun n hn => congrArg Reply.data (setWidth_setWidth_eq_and n hn v)
    refine ⟨?_, ?_, ?_, ?_, ?_, ?_, ?_, ?_⟩
    · refine (hread .ctrl trivial (by decide)).trans (Eq.trans ?_ (hmask 1 (by decide)))
      rw [BitVec.setWidth_one]
      rfl
    · exact (hread .gfA trivial (by decide)).trans (hmask 8 (by decide))
    · exact (hread .gfB trivial (by decide)).trans (hmask 8 (by decide))
    · exact (hread .gfM trivial (by decide)).trans (hmask 9 (by decide))
    · exact (hread .sk0 trivial (by decide)).trans (hmask 20 (by decide))
    · exact (hread .sk1 trivial (by decide)).trans (hmask 20 (by decide))
    · exact (hread .sk2 trivial (by decide)).trans (hmask 20 (by decide))
    · rw [transfer_write_idle _ _ hb]
      rfl
  · refine and_not_lowByte_eq_zero fun i h8 => ?_
    simp [State.regValue, BitVec.getLsbD_setWidth, BitVec.getLsbD_of_ge s.gfRes i h8]
  · exact and_not_lowByte_eq_zero fun i h8 => statusWord_getLsbD_of_ge s h8
  · have h1 : (v &&& 0x6).getLsbD 1 = v.getLsbD 1 := by simp
    have h2 : (v &&& 0x6).getLsbD 2 = v.getLsbD 2 := by simp
    simp only [transfer_write_status, State.writeStatus, h1, h2]

/-! The key buffer. -/

/-- The byte of a register in the spec's own words, `v[31-8j : 24-8j]` (R9, R45). -/
theorem byteOf_eq_slice (v : Word) {j : Nat} (hj : j < 4) :
    byteOf v j = BitVec.ofNat 8 (slice v (31 - 8 * j) (24 - 8 * j)) := by
  have hwidth : 31 - 8 * j + 1 - (24 - 8 * j) = 8 := by omega
  apply BitVec.eq_of_toNat_eq
  rw [byteOf, slice, hwidth, BitVec.extractLsb'_toNat, BitVec.toNat_ofNat, Nat.mod_mod, Nat.shiftRight_eq_div_pow]

/-- A word of KEYBUF written to an idle core (R45). -/
theorem transfer_write_keybuf {s : State} {w : Nat} (v : Word) (hb : s.busy = false) (hw : 4 * w < s.cfg.keybufBytes) :
    s.transfer (0x100 + 4 * w) (.write v) = { s with keybuf := writeKeyWord s.keybuf w v, reply := .written } := by
  have hoff : regAt s.cfg (0x100 + 4 * w) = .keybuf w := regAt_offset s.cfg (.keybuf w) hw
  rw [transfer_write_idle _ v hb, hoff]
  rfl

/-- Every byte of the key buffer after a word is written to it. -/
theorem writeKeyWord_read_eq {n w : Nat} {m : Memory} (v : Word) (k : Nat) (hw : 4 * w + 3 < n) (hm : m.wf n = true) :
    (writeKeyWord m w v).read k = if k / 4 = w then byteOf v (k % 4) else m.read k := by
  split
  · rename_i hk
    have hsplit : k = 4 * w + k % 4 := by omega
    have hlt : k % 4 < 4 := Nat.mod_lt _ (by decide)
    calc (writeKeyWord m w v).read k = (writeKeyWord m w v).read (4 * w + k % 4) := by rw [← hsplit]
      _ = byteOf v (k % 4) := writeKeyWord_read v hlt hw hm
  · rename_i hk
    exact writeKeyWord_read_other m v hk

/-- A word of KEYBUF lies in it whole (R44). -/
theorem keybufWord_in_range {p : Params} {w : Nat} (h : 4 * w < p.keybufBytes) : 4 * w + 3 < p.keybufBytes := by
  have hdvd := keybufBytes_dvd p
  omega

theorem keyByte_eq_read (s : State) : s.keyByte = s.keybuf.read := rfl

@[simp] theorem performWrite_keybuf_keybuf (w : Nat) (v : Word) (s : State) :
    (s.performWrite (.keybuf w) v).keybuf = writeKeyWord s.keybuf w v := rfl

/-- The spec's example key, written word by word to an empty key buffer (R45). -/
theorem exampleKey_bytes :
    (List.range 16).map
        (writeKeyWord (writeKeyWord (writeKeyWord (writeKeyWord [] 0 0x4353474F) 1 0x10360000) 2 0x840D0000) 3
          0x61030000).read =
      [67, 83, 71, 79, 16, 54, 0, 0] ++ [132, 13, 0, 0, 97, 3, 0, 0] := by
  decide

/-- Settles O38, from a key word's bytes and the example key's. -/
theorem keyBufferWordHoldsItsBytes : Obligations.KeyBufferWordHoldsItsBytes := by
  refine ⟨fun s w v h hb hw => ?_, fun p => ?_⟩
  · rw [transfer_write_keybuf v hb hw]
    refine ⟨rfl, fun k => ?_⟩
    rw [← byteOf_eq_slice v (Nat.mod_lt k (by decide))]
    exact writeKeyWord_read_eq v k (keybufWord_in_range hw) h.keybuf_wf
  · simp only [keyByte_eq_read, performWrite_keybuf_keybuf]
    exact exampleKey_bytes

end Sys2Proof.Machine
end

section
/-! The host driver on an idle core: register accesses, a command and its report, and `set_key` (R77, R78, R122, R125). -/

namespace Sys2Proof.Machine

/-! Register accesses. -/

/-- A driver's read of an idle core's register. -/
theorem rd_idle {s : State} {r : Reg} (hb : s.busy = false) (hr : r.exists s.cfg) :
    s.rd r = (s.regValue r, { s with reply := .data (s.regValue r) }) := by
  simp only [State.rd, transfer_read_idle _ hb, regAt_offset s.cfg r hr, Reply.value]

/-- A driver's write to an idle core's register. -/
theorem wr_idle {s : State} {r : Reg} (v : Word) (hb : s.busy = false) (hr : r.exists s.cfg) :
    s.wr r v = { s.performWrite r v with reply := .written } := by
  rw [State.wr, transfer_write_idle _ v hb, regAt_offset s.cfg r hr]

/-! Commands. -/

/-- A command leaves an initialised core idle (R74). -/
theorem exec_idle {i : Instr} {s t : State} (hinit : s.initialising = false) (he : exec i s = .next t) : t.busy = false := by
  obtain ⟨t', ht', hfl, -, hin, -⟩ := exec_completes i s
  cases he.symm.trans ht'
  rw [State.busy, hfl, hin, hinit]
  rfl

/-- A command an idle core accepts runs before `wait` ends, and the last thing `wait` reads is the STATUS of its completion. -/
theorem wr_cmd_wait {s t : State} {w : Word} {i : Instr} (hr : s.rst = false) (hb : s.busy = false) (hd : decode w = .ok i)
    (he : exec i { s.accept w with reply := .written } = .next t) :
    (s.wr .cmd w).wait = { t with reply := .data t.statusWord } := by
  have hinit : s.initialising = false := (Bool.or_eq_false_iff.mp hb).2
  have hmove : coreMove (s.wr .cmd w) = .next t := by
    rw [wr_idle (r := .cmd) w hb trivial, ← he]
    simp [coreMove, State.performWrite, hr, hinit, completePending, hd]
  have hbusy : (s.wr .cmd w).busy = true := by
    rw [wr_idle (r := .cmd) w hb trivial]
    rfl
  have hidle : t.busy = false := exec_idle (s := { s.accept w with reply := .written }) hinit he
  rw [State.wait, if_pos hbusy, State.settle, hmove]
  exact congrArg Prod.snd (rd_idle (r := .status) hidle trivial)

/-- The report a completion's code stands for (R125). -/
def errReport : ErrCode → Report
  | .ok => .done
  | .illegal => .driverFault 1
  | .keylen => .invalidKeyLength
  | .blocklen => .invalidBlockLength
  | .level => .unsupportedLevel
  | .operand => .driverFault 5

/-- STATUS shows ERR in bits 7 to 4 (R22). -/
theorem statusWord_err (s : State) : s.statusWord.extractLsb' 4 4 = s.err.code := by
  apply BitVec.eq_of_getLsbD_eq
  intro i hi
  simp only [State.statusWord, BitVec.getLsbD_append, BitVec.getLsbD_extractLsb', hi, decide_true, Bool.true_and]
  rw [if_neg (by omega), if_neg (by omega), if_neg (by omega), if_neg (by omega), if_pos (by omega)]
  congr 1
  omega

/-- The driver's mapping of STATUS is that of the code (R125). -/
theorem reportOf_statusWord (s : State) : reportOf s.statusWord = errReport s.err := by
  rw [reportOf, statusWord_err]
  cases s.err <;> rfl

/-- A command on an idle core reports its completion's code. -/
theorem runReport_idle {c : AsmCmd} {s t : State} {w : Word} {i : Instr} (hr : s.rst = false) (hb : s.busy = false)
    (ha : assemble c = some w) (hd : decode w = .ok i) (he : exec i { s.accept w with reply := .written } = .next t) :
    runReport c s = some (errReport t.err, { t with reply := .data t.statusWord }) := by
  have hinit : s.initialising = false := (Bool.or_eq_false_iff.mp hb).2
  have hidle : State.busy { t with reply := .data t.statusWord } = false :=
    exec_idle (s := { s.accept w with reply := .written }) (t := t) hinit he
  have hread := rd_idle (r := .status) hidle trivial
  simp only [runReport, ha, Option.map_some, wr_cmd_wait hr hb hd he, hread]
  exact congrArg (fun report => some (report, { t with reply := .data t.statusWord })) (reportOf_statusWord t)

/-! SETKEY's word. -/

/-- A 16-bit ARG and an opcode as the assembler joins them (R67, R76). -/
theorem ofNat_shift_or_eq_cmdWord {n : Nat} (hn : n ≤ 65535) (opc : BitVec 4) :
    BitVec.ofNat 32 (n <<< 8 ||| opc.toNat) = cmdWord (BitVec.ofNat 16 n) opc := by
  have hshift : n <<< 8 < 2 ^ 32 := by rw [Nat.shiftLeft_eq]; omega
  have hopc : opc.toNat < 2 ^ 32 := by omega
  have hlt : n <<< 8 ||| opc.toNat < 2 ^ 32 := Nat.or_lt_two_pow hshift hopc
  apply BitVec.eq_of_toNat_eq
  rw [BitVec.toNat_ofNat, Nat.mod_eq_of_lt hlt]
  simp only [cmdWord, BitVec.toNat_append, BitVec.toNat_ofNat, Nat.zero_mod, Nat.zero_shiftLeft, Nat.zero_or, Nat.or_zero,
    Nat.mod_eq_of_lt (show n < 2 ^ 16 by omega), ← Nat.shiftLeft_add]

theorem assemble_setkey {n : Nat} (hn : n ≤ 65535) : assemble (.setkey n) = some (cmdWord (BitVec.ofNat 16 n) 2) := by
  have hwf : (AsmCmd.setkey n).wellFormed = true := decide_eq_true hn
  rw [assemble, if_pos hwf]
  exact congrArg some (ofNat_shift_or_eq_cmdWord hn 2)

theorem assemble_setkey_none {n : Nat} (hn : 65535 < n) : assemble (.setkey n) = none := by
  have hwf : ¬ (AsmCmd.setkey n).wellFormed = true := by simpa [AsmCmd.wellFormed] using hn
  rw [assemble, if_neg hwf]

theorem decode_setkey (len : BitVec 16) : decode (cmdWord len 2) = .ok (.setkey len) := by
  rw [decode_cmdWord]
  rfl

/-- SETKEY with the length KEYLEN asks for succeeds (R108). -/
theorem completionCode_setkey {n : Nat} {s : State} (hn : n ≤ 65535) (hlen : n = s.keylen.toNat) :
    completionCode (.setkey (BitVec.ofNat 16 n)) s = .ok := by
  have heq : (BitVec.ofNat 16 n).setWidth 32 = s.keylen := by
    apply BitVec.eq_of_toNat_eq
    rw [BitVec.toNat_setWidth, BitVec.toNat_ofNat]
    omega
  simp [completionCode, heq]

/-! The key's words. -/

/-- The bytes of `be32` are those it was made of (R123). -/
theorem byteOf_be32 (b : List Byte) (k : Nat) {j : Nat} (hj : j < 4) : byteOf (be32 b k) j = b.getD (k + j) 0 := by
  apply BitVec.eq_of_getLsbD_eq
  intro i hi
  simp only [byteOf, be32, wordOf, BitVec.getLsbD_append, BitVec.getLsbD_extractLsb', hi, decide_true, Bool.true_and]
  interval_cases j
  · rw [if_neg (by omega), if_neg (by omega), if_neg (by omega)]
    congr 1
    omega
  · rw [if_neg (by omega), if_neg (by omega), if_pos (by omega)]
    congr 1
    omega
  · rw [if_neg (by omega), if_pos (by omega)]
    congr 1
    omega
  · rw [if_pos (by omega)]
    congr 1
    omega

/-- The first `n` words of a key written to an idle core change the key buffer and the port alone, and the buffer then holds the
key's first `4 * n` bytes (R122). -/
theorem writeKeyWords_idle (key : List Byte) {s : State} (hb : s.busy = false)
    (hwf : s.keybuf.wf s.cfg.keybufBytes = true) (n : Nat) (hn : 4 * n ≤ s.cfg.keybufBytes) :
    ∃ (m : Memory) (reply : Reply),
      (List.range n).foldl (fun s w => s.wr (.keybuf w) (be32 key (4 * w))) s = { s with keybuf := m, reply := reply } ∧
        m.wf s.cfg.keybufBytes = true ∧ ∀ k < 4 * n, m.read k = key.getD k 0 := by
  induction n with
  | zero => exact ⟨s.keybuf, s.reply, rfl, hwf, fun k hk => absurd hk (Nat.not_lt_zero k)⟩
  | succ n ih =>
    obtain ⟨m, reply, hfold, hm, hread⟩ := ih (by omega)
    have hword : 4 * n < s.cfg.keybufBytes := by omega
    refine ⟨writeKeyWord m n (be32 key (4 * n)), .written, ?_, writeKeyWord_wf _ (keybufWord_in_range hword) hm,
      fun k hk => ?_⟩
    · rw [List.range_succ, List.foldl_append, hfold]
      exact wr_idle (r := .keybuf n) _ hb hword
    · rw [writeKeyWord_read_eq _ k (keybufWord_in_range hword) hm]
      split
      · rename_i hk4
        rw [byteOf_be32 key (4 * n) (Nat.mod_lt k (by decide)), ← hk4, Nat.div_add_mod]
      · rename_i hk4
        exact hread k (by omega)

/-- The key KEYLEN asks for is a number of whole words, and KEYBUF holds it (R31, R44). -/
theorem State.Inv.keylen_fits {s : State} (h : s.Inv) :
    4 * (s.keylen.toNat / 4) = s.keylen.toNat ∧ s.keylen.toNat ≤ s.cfg.keybufBytes := by
  have hbytes : s.cfg.keybufBytes = max 16 (8 * s.cfg.nMax) := rfl
  obtain ⟨-, -, hkeylen⟩ | ⟨-, hle, -, hkeylen⟩ := h.level
  · have h16 : s.keylen.toNat = 16 := by rw [hkeylen]; rfl
    omega
  · omega

/-- A key of the length KEYLEN asks for, written to an idle core. -/
theorem writeKey_idle (key : List Byte) {s : State} (h : s.Inv) (hb : s.busy = false)
    (hlen : key.length = s.keylen.toNat) :
    ∃ (m : Memory) (reply : Reply), writeKey key s = { s with keybuf := m, reply := reply } ∧
      ∀ k < key.length, m.read k = key.getD k 0 := by
  obtain ⟨hwords, hfits⟩ := h.keylen_fits
  obtain ⟨m, reply, hfold, -, hread⟩ := writeKeyWords_idle key hb h.keybuf_wf (key.length / 4) (by omega)
  exact ⟨m, reply, hfold, fun k hk => hread k (by omega)⟩

/-- SETKEY of the right length on an idle core: done, KEYED = 1, the key buffer as it was. -/
theorem runReport_setkey {n : Nat} {s : State} (hr : s.rst = false) (hb : s.busy = false) (hn : n ≤ 65535)
    (hlen : n = s.keylen.toNat) :
    ∃ t, runReport (.setkey n) s = some (.done, t) ∧ t.keyed = true ∧ t.keybuf = s.keybuf := by
  have hcode := completionCode_setkey (s := { s.accept (cmdWord (BitVec.ofNat 16 n) 2) with reply := .written }) hn hlen
  have hexec := exec_eq (.setkey (BitVec.ofNat 16 n)) { s.accept (cmdWord (BitVec.ofNat 16 n) 2) with reply := .written }
  rw [if_pos hcode] at hexec
  exact ⟨_, runReport_idle hr hb (assemble_setkey hn) (decode_setkey _) hexec, rfl, rfl⟩

/-- The driver's check, on an idle core (R122). -/
theorem libSetKey_idle (key : List Byte) {s : State} (hb : s.busy = false) :
    libSetKey key s =
      if key.length ≠ s.keylen.toNat then (.invalidKeyLength, { s with reply := .data s.keylen })
      else
        (runReport (.setkey key.length) (writeKey key { s with reply := .data s.keylen })).getD
          (.notEncodable, writeKey key { s with reply := .data s.keylen }) := by
  rw [libSetKey, rd_idle (r := .keylen) hb trivial]
  rfl

/-- Settles O58: the check, then the key's words, then SETKEY where its length fits an ARG. -/
theorem driverSetKeyChecksThenKeys : Obligations.DriverSetKeyChecksThenKeys := by
  intro s key h hr hb
  rw [libSetKey_idle key hb]
  have hwrite := writeKey_idle key (h.setReply hr (.data s.keylen) s.draws) hb
  refine ⟨fun hlen => ?_, fun hlen hfits => ?_, fun hlen hlong => ?_⟩
  · rw [if_pos hlen]
    exact ⟨rfl, rfl⟩
  · obtain ⟨m, reply, hkey, hread⟩ := hwrite hlen
    obtain ⟨t, ht, hkeyed, hbuf⟩ :=
      runReport_setkey (s := { s with keybuf := m, reply := reply }) hr hb hfits hlen
    rw [if_neg (not_not_intro hlen), hkey, ht]
    refine ⟨rfl, hkeyed, fun k hk => ?_⟩
    show t.keybuf.read k = _
    rw [hbuf]
    exact hread k hk
  · obtain ⟨m, reply, hkey, -⟩ := hwrite hlen
    rw [if_neg (not_not_intro hlen), hkey, runReport, assemble_setkey_none hlong]
    exact ⟨rfl, rfl, rfl⟩

end Sys2Proof.Machine
end

section
/-! The canonical form of a sparse memory is fixed by what it reads (log 14), so a key word written twice is as once. -/

namespace Sys2Proof.Machine

section Sparse

variable {α : Type} [DecidableEq α] {d : α}

theorem sparseWf_cons {hi lo : Nat} {e : Nat × α} {rest : List (Nat × α)} :
    sparseWf d hi lo (e :: rest) = true ↔
      lo ≤ e.1 ∧ e.1 < hi ∧ e.2 ≠ d ∧ sparseWf d hi (e.1 + 1) rest = true := by
  simp [sparseWf, and_assoc]

omit [DecidableEq α] in
@[simp] theorem sparseRead_cons_self (e : Nat × α) (rest : List (Nat × α)) : sparseRead d (e :: rest) e.1 = e.2 := by
  simp [sparseRead]

omit [DecidableEq α] in
theorem sparseRead_cons_of_ne {e : Nat × α} {a : Nat} (rest : List (Nat × α)) (h : e.1 ≠ a) :
    sparseRead d (e :: rest) a = sparseRead d rest a := by
  simp [sparseRead, h]

/-- No key before the first listed one reads anything but `d`. -/
theorem fst_le_of_sparseRead_ne {hi lo a : Nat} {e : Nat × α} {rest : List (Nat × α)}
    (hm : sparseWf d hi lo (e :: rest) = true) (h : sparseRead d (e :: rest) a ≠ d) : e.1 ≤ a := by
  obtain ⟨-, hhi, hne, hrest⟩ := sparseWf_cons.mp hm
  have hfirst : sparseWf d hi e.1 (e :: rest) = true := sparseWf_cons.mpr ⟨le_rfl, hhi, hne, hrest⟩
  exact Nat.le_of_not_lt fun hlt => h (sparseRead_of_lt hlt hfirst)

/-- Two canonical forms that read alike start with the same key, so by induction they are the same list. -/
theorem eq_of_sparseRead_eq {hi lo : Nat} {m n : List (Nat × α)} (hm : sparseWf d hi lo m = true)
    (hn : sparseWf d hi lo n = true) (h : ∀ a, sparseRead d m a = sparseRead d n a) : m = n := by
  induction m generalizing lo n with
  | nil =>
    cases n with
    | nil => rfl
    | cons f restN =>
      obtain ⟨-, -, hf, -⟩ := sparseWf_cons.mp hn
      exact absurd (by simpa using (h f.1).symm) hf
  | cons e restM ih =>
    obtain ⟨-, -, he, hrestM⟩ := sparseWf_cons.mp hm
    cases n with
    | nil => exact absurd (by simpa using h e.1) he
    | cons f restN =>
      obtain ⟨-, -, hf, hrestN⟩ := sparseWf_cons.mp hn
      have hef : e.1 ≤ f.1 := fst_le_of_sparseRead_ne hm (by rwa [h, sparseRead_cons_self])
      have hfe : f.1 ≤ e.1 := fst_le_of_sparseRead_ne hn (by rwa [← h, sparseRead_cons_self])
      have hkey : f.1 = e.1 := le_antisymm hfe hef
      have hval : e.2 = f.2 := by
        have hread := h e.1
        rwa [sparseRead_cons_self, ← hkey, sparseRead_cons_self] at hread
      rw [hkey] at hrestN
      have htail : ∀ a, sparseRead d restM a = sparseRead d restN a := by
        intro a
        by_cases ha : e.1 = a
        · have hlt : a < e.1 + 1 := by omega
          rw [sparseRead_of_lt hlt hrestM, sparseRead_of_lt hlt hrestN]
        · have hread := h a
          rwa [sparseRead_cons_of_ne restM ha, sparseRead_cons_of_ne restN (hkey ▸ ha)] at hread
      rw [Prod.ext hkey.symm hval, ih hrestM hrestN htail]

end Sparse

/-- A key word written twice is as once. -/
theorem writeKeyWord_writeKeyWord {n w : Nat} {m : Memory} (v : Word) (hw : 4 * w + 3 < n) (hm : m.wf n = true) :
    writeKeyWord (writeKeyWord m w v) w v = writeKeyWord m w v := by
  have hm₁ := writeKeyWord_wf v hw hm
  refine eq_of_sparseRead_eq (writeKeyWord_wf v hw hm₁) hm₁ fun k => ?_
  show (writeKeyWord (writeKeyWord m w v) w v).read k = (writeKeyWord m w v).read k
  simp only [writeKeyWord_read_eq v k hw hm₁, writeKeyWord_read_eq v k hw hm]
  split <;> rfl

end Sys2Proof.Machine
end

section
/-! The side effects of host accesses, and the error response (R54, R56). -/

namespace Sys2Proof.Machine

/-! Reads. -/

/-- A read that R150 does not leave unspecified returns the register's value and changes the port alone. -/
theorem transfer_read_specified {off : Nat} {s : State}
    (h : s.busy = false ∨ (regAt s.cfg off).unspecifiedWhileBusy = false) :
    s.transfer off .read = { s with reply := .data (s.regValue (regAt s.cfg off)) } := by
  obtain hb | hr := h
  · exact transfer_read_idle off hb
  · simp [State.transfer, State.readReg, hr]

/-- Such a read repeats exactly. -/
theorem transfer_read_read {off : Nat} {s : State}
    (h : s.busy = false ∨ (regAt s.cfg off).unspecifiedWhileBusy = false) :
    (s.transfer off .read).transfer off .read = s.transfer off .read := by
  have hagain := transfer_read_specified (s := { s with reply := .data (s.regValue (regAt s.cfg off)) }) h
  rw [transfer_read_specified h]
  rwa [regValue_setReply] at hagain

/-! Writes. -/

/-- A write that BUSY blocks sets OVR and does nothing else (R149). -/
theorem transfer_write_blocked {off : Nat} {s : State} (v : Word) (hb : s.busy = true)
    (hr : (regAt s.cfg off).blockedWhileBusy = true) :
    s.transfer off (.write v) = { s with ovr := true, reply := .written } := by
  simp [transfer_write, State.writeReg, State.setOvr, hb, hr]

/-- A write is blocked or performed. -/
theorem blocked_or_free (off : Nat) (s : State) :
    (s.busy = true ∧ (regAt s.cfg off).blockedWhileBusy = true) ∨
      (s.busy = false ∨ (regAt s.cfg off).blockedWhileBusy = false) := by
  cases s.busy <;> cases (regAt s.cfg off).blockedWhileBusy <;> simp

/-- No write but one to CMD touches the command in flight. -/
theorem performWrite_command {r : Reg} (v : Word) (s : State) (h : r ≠ .cmd) :
    (s.performWrite r v).inflight = s.inflight ∧ (s.performWrite r v).pcmd = s.pcmd := by
  cases r with
  | cmd => exact absurd rfl h
  | _ => exact ⟨rfl, rfl⟩

/-- No write but one to CMD or STATUS touches DONE. -/
theorem performWrite_done {r : Reg} (v : Word) (s : State) (hcmd : r ≠ .cmd) (hstatus : r ≠ .status) :
    (s.performWrite r v).done = s.done := by
  cases r with
  | cmd => exact absurd rfl hcmd
  | status => exact absurd rfl hstatus
  | _ => rfl

/-- A performed write does not look at the port. -/
theorem performWrite_setReply (r : Reg) (v : Word) (reply : Reply) (s : State) :
    State.performWrite r v { s with reply := reply } = { s.performWrite r v with reply := reply } := by
  cases r <;> rfl

/-- A performed write to any register but CMD, made twice, is as one. -/
theorem State.Inv.performWrite_performWrite {s : State} {r : Reg} (h : s.Inv) (v : Word) (hcmd : r ≠ .cmd)
    (hword : ∀ w, r = .keybuf w → 4 * w + 3 < s.cfg.keybufBytes) :
    (s.performWrite r v).performWrite r v = s.performWrite r v := by
  cases r with
  | cmd => exact absurd rfl hcmd
  | status => simp [State.performWrite, State.writeStatus]
  | keybuf w => simp [State.performWrite, writeKeyWord_writeKeyWord v (hword w rfl) h.keybuf_wf]
  | _ => rfl

/-- A write to any target but CMD, made twice, is as one: both are blocked, or both are performed. -/
theorem State.Inv.transfer_write_write {s : State} {off : Nat} (h : s.Inv) (v : Word) (hcmd : regAt s.cfg off ≠ .cmd) :
    (s.transfer off (.write v)).transfer off (.write v) = s.transfer off (.write v) := by
  have hcfg := (transfer_sameCoreRegs off (.write v) s).cfg
  obtain ⟨hb, hr⟩ | hfree := blocked_or_free off s
  · rw [transfer_write_blocked v hb hr]
    exact transfer_write_blocked v hb hr
  · have hw := transfer_write_performed v hfree
    have hbusy : (s.transfer off (.write v)).busy = s.busy := by
      rw [hw]
      exact performWrite_busy v s hcmd
    rw [transfer_write_performed v (s := s.transfer off (.write v)) (by rwa [hbusy, hcfg]), hcfg, hw,
      performWrite_setReply, h.performWrite_performWrite v hcmd fun w => regAt_keybuf]

/-- A write to any target but CMD leaves the command in flight. -/
theorem transfer_write_command {off : Nat} {s : State} (v : Word) (hcmd : regAt s.cfg off ≠ .cmd) :
    (s.transfer off (.write v)).inflight = s.inflight ∧ (s.transfer off (.write v)).pcmd = s.pcmd := by
  obtain ⟨hb, hr⟩ | hfree := blocked_or_free off s
  · rw [transfer_write_blocked v hb hr]
    exact ⟨rfl, rfl⟩
  · rw [transfer_write_performed v hfree]
    exact performWrite_command v s hcmd

/-- A write to any target but CMD and STATUS leaves DONE. -/
theorem transfer_write_done {off : Nat} {s : State} (v : Word) (hcmd : regAt s.cfg off ≠ .cmd)
    (hstatus : regAt s.cfg off ≠ .status) : (s.transfer off (.write v)).done = s.done := by
  obtain ⟨hb, hr⟩ | hfree := blocked_or_free off s
  · rw [transfer_write_blocked v hb hr]
  · rw [transfer_write_performed v hfree]
    exact performWrite_done v s hcmd hstatus

/-- A performed write to any target but STATUS leaves OVR. -/
theorem transfer_write_ovr {off : Nat} {s : State} (v : Word) (hstatus : regAt s.cfg off ≠ .status)
    (hfree : s.busy = false ∨ (regAt s.cfg off).blockedWhileBusy = false) :
    (s.transfer off (.write v)).ovr = s.ovr := by
  rw [transfer_write_performed v hfree]
  exact (performWrite_ovr _ v s).trans (if_neg fun hs => hstatus hs.1)

/-- A read-only register or a reserved offset ignores a write at any time (R17, R43, R149). -/
theorem transfer_write_readOnly {off : Nat} {s : State} (v : Word)
    (h : regAt s.cfg off ∈
      [Reg.size, .rounds, .keylen, .nmax, .id, .dout0, .dout1, .gfRes, .permOut, .sboxOut, .fOut, .reserved]) :
    s.transfer off (.write v) = { s with reply := .written } := by
  have hfree : ∀ r ∈
      [Reg.size, .rounds, .keylen, .nmax, .id, .dout0, .dout1, .gfRes, .permOut, .sboxOut, .fOut, .reserved],
      r.blockedWhileBusy = false := by decide
  rw [transfer_write_performed v (.inr (hfree _ h)), performWrite_readOnly v s h]

/-- Settles O42: a read is on the port alone, a write is blocked or performed, and a performed one is its target's own. -/
theorem accessSideEffectsAreOnlyTheNamedOnes : Obligations.AccessSideEffectsAreOnlyTheNamedOnes := by
  refine ⟨fun s off => transfer_read_frame off s, fun s off => transfer_read_read,
    fun s off v h hcmd => h.transfer_write_write v hcmd, fun s off v => transfer_write_blocked v,
    fun s v => transfer_write_cmd v, fun s v hb => ?_, fun s v => transfer_write_ctrl v s,
    fun s v => transfer_write_status v s, fun s off v => transfer_write_command v,
    fun s off v hcmd hstatus => ⟨transfer_write_done v hcmd hstatus, transfer_write_ovr v hstatus⟩,
    fun s off v => transfer_write_readOnly v⟩
  have hidle := fun off => transfer_write_idle off v hb
  exact ⟨hidle 0x020, hidle 0x024, hidle 0x030, hidle 0x034, hidle 0x038, hidle 0x040, hidle 0x04C, hidle 0x050,
    hidle 0x054, hidle 0x058, fun w hw => transfer_write_keybuf v hb hw⟩

/-! The error response. -/

/-- Offsets from the aperture's base have the alignment of their addresses. -/
theorem Access.served_eq_false {p : Params} {a : Access} (hbase : p.base ≤ a.addr)
    (h : a.bytes ≠ 4 ∨ (a.addr - p.base) % 4 ≠ 0) : a.served = false := by
  have haligned := base_aligned p
  simp only [Access.served, decide_eq_false_iff_not]
  omega

/-- Settles O41: the access is in the aperture, out of reset, and not of the one kind that is served. -/
theorem otherAccessesGetABusError : Obligations.OtherAccessesGetABusError := by
  intro s a hr hlo hhi hbad
  have hin : inAperture s.cfg a.addr = true := decide_eq_true ⟨hlo, hhi⟩
  simp [serveAccess, hr, hin, Access.served_eq_false hlo hbad]

end Sys2Proof.Machine
end

section
/-! A CMD write and a completion in either order (R134). -/

namespace Sys2Proof.Machine

/-! Runs. -/

/-- A run goes on from the state its first step answers. -/
theorem run_succ {s t : State} (n : Nat) (h : step s = .next t) :
    Sys2Proof.core.run (n + 1) s = Sys2Proof.core.run n t := by
  have hcore : Sys2Proof.core.step s = .next t := h
  simp only [Host.Core.run, hcore]

/-- Two steps, one after the other. -/
theorem run_two {s t u : State} (h₁ : step s = .next t) (h₂ : step t = .next u) : Sys2Proof.core.run 2 s = .next u :=
  (run_succ 1 h₁).trans (run_succ 0 h₂)

/-! A completion looks neither at OVR nor at the core's surroundings. -/

/-- The state with another OVR, another response at the port and other inputs pending. -/
def State.withPort (ovr : Bool) (reply : Reply) (inputs : List Input) (s : State) : State :=
  { s with ovr := ovr, reply := reply, inputs := inputs }

section WithPort

variable (ovr : Bool) (reply : Reply) (inputs : List Input)

theorem completionCode_withPort (i : Instr) (s : State) :
    completionCode i (s.withPort ovr reply inputs) = completionCode i s := by
  cases i <;> rfl

theorem effect_withPort (i : Instr) (s : State) :
    effect i (s.withPort ovr reply inputs) = (effect i s).withPort ovr reply inputs := by
  cases i <;> rfl

theorem complete_withPort (e : ErrCode) (s : State) :
    (s.withPort ovr reply inputs).complete e = (s.complete e).withPort ovr reply inputs := rfl

theorem exec_withPort {i : Instr} {s t : State} (h : exec i s = .next t) :
    exec i (s.withPort ovr reply inputs) = .next (t.withPort ovr reply inputs) := by
  rw [exec_eq, completionCode_withPort, effect_withPort, complete_withPort, complete_withPort]
  obtain ⟨hok, rfl⟩ | ⟨hfail, rfl⟩ := exec_next_cases h
  · rw [if_pos hok]
  · rw [if_neg hfail]

theorem completePending_withPort {s t : State} (h : completePending s = .next t) :
    completePending (s.withPort ovr reply inputs) = .next (t.withPort ovr reply inputs) := by
  have hpcmd : (s.withPort ovr reply inputs).pcmd = s.pcmd := rfl
  cases hd : decode s.pcmd with
  | error e =>
    simp only [completePending, hd, Host.Outcome.next.injEq] at h
    simp only [completePending, hpcmd, hd, ← h]
    rfl
  | ok i =>
    simp only [completePending, hd] at h
    simp only [completePending, hpcmd, hd]
    exact exec_withPort ovr reply inputs h

end WithPort

/-- A completion in an initialised core leaves it idle (R74). -/
theorem completePending_idle {s t : State} (hinit : s.initialising = false) (h : completePending s = .next t) :
    t.busy = false := by
  cases hd : decode s.pcmd with
  | error e =>
    simp only [completePending, hd, Host.Outcome.next.injEq] at h
    subst h
    simp [State.busy, hinit]
  | ok i =>
    simp only [completePending, hd] at h
    exact exec_idle hinit h

/-- A pending CMD write reaches CMD (R53, R73). -/
theorem step_cmdWrite {s : State} {v : Word} {rest : List Input} (hr : s.rst = false)
    (hin : s.inputs = .access ⟨s.cfg.base, 4, .write v⟩ :: rest) :
    step s = .next (State.transfer 0x000 (.write v) { s with inputs := rest }) :=
  (step_cons hin).trans (serveAccess_reg .cmd (.write v) { s with inputs := rest } hr trivial)

/-- A busy core drops a pending CMD write and sets OVR (R73, R149). -/
theorem step_cmdWrite_busy {s : State} {v : Word} {rest : List Input} (hr : s.rst = false) (hb : s.busy = true)
    (hin : s.inputs = .access ⟨s.cfg.base, 4, .write v⟩ :: rest) : step s = .next (s.withPort true .written rest) :=
  (step_cmdWrite hr hin).trans
    (congrArg Host.Outcome.next (transfer_write_blocked (s := { s with inputs := rest }) (off := 0x000) v hb rfl))

/-- An idle core accepts a pending CMD write (R73). -/
theorem step_cmdWrite_idle {s : State} {v : Word} {rest : List Input} (hr : s.rst = false) (hb : s.busy = false)
    (hin : s.inputs = .access ⟨s.cfg.base, 4, .write v⟩ :: rest) :
    step s = .next ((s.accept v).withPort s.ovr .written rest) :=
  (step_cmdWrite hr hin).trans
    (congrArg Host.Outcome.next (transfer_write_cmd (s := { s with inputs := rest }) v hb))

/-- A tick completes the word in flight the same, whatever OVR, the port's response and the inputs after it. -/
theorem step_withPort_tick {s u : State} (hr : s.rst = false) (hinit : s.initialising = false) (hfl : s.inflight = true)
    (hdue : completePending s = .next u) (ovr : Bool) (reply : Reply) (rest : List Input) :
    step (s.withPort ovr reply (.tick :: rest)) = .next (u.withPort ovr reply rest) := by
  have hat : (s.withPort ovr reply (.tick :: rest)).AtCompletion rest := ⟨hr, hinit, hfl, .inr rfl⟩
  have hport := completePending_withPort ovr reply rest hdue
  exact (step_atCompletion hat).trans hport

/-- Settles O47: the completion is the same with the write before it or after it, since it looks at neither OVR nor the port. -/
theorem commandWriteAndCompletionInBothOrders : Obligations.CommandWriteAndCompletionInBothOrders := by
  intro s v hr hinit hfl
  obtain ⟨u, hu, hin, hrst, hcfg⟩ := coreMove_frame { s with inputs := [] }
  replace hin : u.inputs = [] := hin
  have hovr : u.ovr = s.ovr := (coreMove_sameHostRegs hu).ovr
  have hdue : completePending { s with inputs := [] } = .next u := by
    simpa [coreMove, hr, hinit, hfl] using hu
  obtain ⟨hdone, hnone⟩ := completePending_completes hdue
  have htick := step_withPort_tick (s := { s with inputs := [] }) hr hinit hfl hdue
  refine ⟨⟨u.withPort true .written [], u, ?_, hu, ?_, hnone, hdone⟩,
    ⟨(u.accept v).withPort u.ovr .written [], u, ?_, hu, ?_⟩⟩
  · have hbusy : s.busy = true := by simp [State.busy, hfl]
    exact run_two (step_cmdWrite_busy hr hbusy rfl) (htick true .written [])
  · rw [State.withPort, hin]
  · have hidle : u.busy = false := completePending_idle (s := { s with inputs := [] }) hinit hdue
    have hwrite : [Input.access ⟨s.cfg.base, 4, .write v⟩] = [.access ⟨u.cfg.base, 4, .write v⟩] := by rw [hcfg]
    rw [hovr]
    exact run_two (htick s.ovr s.reply _) (step_cmdWrite_idle (hrst.trans hr) hidle hwrite)
  · rw [State.withPort, ← hin]
    rfl

end Sys2Proof.Machine
end

section
/-! A host that keeps its duties (R52, R146; log 9, log 10). -/

namespace Sys2Proof.Machine

@[simp] theorem setRst_rst (level : Bool) (s : State) : (s.setRst level).rst = level := by
  obtain ⟨-, h⟩ | ⟨rfl, hr, h⟩ := setRst_cases level s <;> rw [h]
  exact hr

@[simp] theorem setRst_inputs (level : Bool) (s : State) : (s.setRst level).inputs = s.inputs := by
  obtain ⟨-, h⟩ | ⟨-, -, h⟩ := setRst_cases level s <;> rw [h]

/-- An access that keeps the host's duties is answered, and leaves what the duties speak of. -/
theorem serveAccess_dutiful {a : Access} {s : State} (hr : s.rst = false) (ha : inAperture s.cfg a.addr = true) :
    ∃ t, serveAccess a s = .next t ∧ t.inputs = s.inputs ∧ t.rst = s.rst ∧ t.cfg = s.cfg := by
  obtain ⟨hr', -⟩ | ⟨-, ha', -⟩ | ⟨-, -, -, h⟩ | ⟨-, -, -, h⟩ := serveAccess_cases a s
  · exact absurd (hr.symm.trans hr') (by decide)
  · exact absurd (ha.symm.trans ha') (by decide)
  · exact ⟨_, h, rfl, rfl, rfl⟩
  · obtain ⟨hin, hrst, hcfg, -⟩ := transfer_frame (a.addr - s.cfg.base) a.kind s
    exact ⟨_, h, hin, hrst, hcfg⟩

/-- The duties over what is left of the inputs, in a state that took one. -/
theorem State.dutiful_of_eq {p : Params} {level : Bool} {rest : List Input} {t : State} (hd : dutiful p level rest = true)
    (hin : t.inputs = rest) (hr : t.rst = level) (hcfg : t.cfg = p) : t.Dutiful := by
  rwa [State.Dutiful, hcfg, hr, hin]

/-- A step of a core whose host keeps its duties answers a next state, in which it still does. -/
theorem State.Dutiful.step {s : State} (h : s.Dutiful) : ∃ t, step s = .next t ∧ t.Dutiful := by
  have hd : dutiful s.cfg s.rst s.inputs = true := h
  obtain ⟨-, hs⟩ | ⟨a, rest, hin, hs⟩ | ⟨rest, hin, hs⟩ | ⟨level, rest, hin, hs⟩ := step_cases s <;> rw [hs]
  · obtain ⟨t, ht, hin, hr, hcfg⟩ := coreMove_frame s
    exact ⟨t, ht, State.dutiful_of_eq hd hin hr hcfg⟩
  · simp only [hin, dutiful, Bool.and_eq_true, Bool.not_eq_true'] at hd
    obtain ⟨⟨hrst, ha⟩, hrest⟩ := hd
    obtain ⟨t, ht, htin, hr, hcfg⟩ := serveAccess_dutiful (s := { s with inputs := rest }) hrst ha
    exact ⟨t, ht, State.dutiful_of_eq hrest htin hr hcfg⟩
  · have hrest : dutiful s.cfg s.rst rest = true := by rwa [hin, dutiful] at hd
    obtain ⟨t, ht, htin, hr, hcfg⟩ := coreMove_frame { s with inputs := rest }
    exact ⟨t, ht, State.dutiful_of_eq hrest htin hr hcfg⟩
  · have hrest : dutiful s.cfg level rest = true := by rwa [hin, dutiful] at hd
    exact ⟨_, rfl, State.dutiful_of_eq hrest (setRst_inputs level _) (setRst_rst level _) (setRst_cfg level _)⟩

/-- Settles O53, by induction on the number of steps. -/
theorem dutifulHostNeverStopsTheCore : Obligations.DutifulHostNeverStopsTheCore := by
  intro s h n
  induction n generalizing s with
  | zero => exact ⟨s, rfl⟩
  | succ n ih =>
    obtain ⟨t, ht, hduty⟩ := h.step
    rw [run_succ n ht]
    exact ih t hduty

end Sys2Proof.Machine
end

section
/-! Commands and words: a command is its opcode and its ARG, and a word decodes to a command just when it is that command's
(R67 to R71). -/

namespace Sys2Proof

open Laws.Fields (opcode)

/-- The ARG of a command's word (R68, R69). -/
def argument : Instr → BitVec 16
  | .config n => n
  | .setkey len | .encrypt len | .decrypt len => len
  | .sboxrd c index => 0#4 ++ c ++ index
  | .nop | .gfmul | .gfexp7 | .perm32 | .ftest => 0

theorem encode_eq_cmdWord (i : Instr) : encode i = cmdWord (argument i) (opcode i) := by
  cases i <;> rfl

theorem decodePlain_eq_ok_iff {arg : BitVec 16} {i j : Instr} : decodePlain arg i = .ok j ↔ arg = 0 ∧ i = j := by
  rw [decodePlain]
  split <;> simp_all

/-- SBOXRD's ARG is four zero bits, the column and the row (R68). -/
theorem decodeSboxrd_eq_ok_iff {arg : BitVec 16} {i : Instr} :
    decodeSboxrd arg = .ok i ↔ ∃ (c : BitVec 2) (index : BitVec 10), arg = 0#4 ++ c ++ index ∧ i = .sboxrd c index := by
  constructor
  · intro h
    have hfields : arg.extractLsb' 12 4 ++ arg.extractLsb' 10 2 ++ arg.extractLsb' 0 10 = arg := by
      rw [BitVec.extractLsb'_append_extractLsb'_eq_extractLsb' (start₁ := 10) (len₁ := 2) rfl]
      exact (BitVec.extractLsb'_append_extractLsb'_eq_extractLsb' (start₁ := 0) (len₁ := 10) rfl).trans
        BitVec.extractLsb'_eq_self
    rw [decodeSboxrd] at h
    split at h
    · rename_i hzero
      cases h
      exact ⟨_, _, by rw [← hzero, hfields], rfl⟩
    · cases h
  · rintro ⟨c, index, rfl, rfl⟩
    have hrow : (0#4 ++ c ++ index).extractLsb' 0 10 = index := BitVec.extractLsb'_append_eq_right
    have hcol : (0#4 ++ c ++ index).extractLsb' 10 2 = c :=
      (BitVec.extractLsb'_append_eq_of_le (by decide)).trans BitVec.extractLsb'_append_eq_right
    have hzero : (0#4 ++ c ++ index).extractLsb' 12 4 = 0#4 :=
      (BitVec.extractLsb'_append_eq_of_le (by decide)).trans BitVec.extractLsb'_append_eq_left
    rw [decodeSboxrd, if_pos hzero, hcol, hrow]

/-- An opcode and an ARG stand for a command just when they are its own (R69). -/
theorem decodeOp_eq_ok_iff {opc : BitVec 4} {arg : BitVec 16} {i : Instr} :
    decodeOp opc arg = .ok i ↔ opc = opcode i ∧ arg = argument i := by
  constructor
  · intro h
    unfold decodeOp at h
    split at h
    case h_1 hopc | h_6 hopc | h_7 hopc | h_8 hopc | h_10 hopc =>
      obtain ⟨rfl, rfl⟩ := decodePlain_eq_ok_iff.mp h
      exact ⟨BitVec.eq_of_toNat_eq hopc, rfl⟩
    case h_2 hopc | h_3 hopc | h_4 hopc | h_5 hopc =>
      cases h
      exact ⟨BitVec.eq_of_toNat_eq hopc, rfl⟩
    case h_9 hopc =>
      obtain ⟨c, index, rfl, rfl⟩ := decodeSboxrd_eq_ok_iff.mp h
      exact ⟨BitVec.eq_of_toNat_eq hopc, rfl⟩
    case h_11 => cases h
  · rintro ⟨rfl, rfl⟩
    cases i with
    | sboxrd c index => exact decodeSboxrd_eq_ok_iff.mpr ⟨c, index, rfl, rfl⟩
    | _ => rfl

/-- R71's order of checks: a word decodes when its reserved fields are 0 and its opcode and ARG stand for a command. -/
theorem decode_eq_ok_iff_fields {w : Word} {i : Instr} :
    decode w = .ok i ↔ w.extractLsb' 24 8 = 0#8 ∧ w.extractLsb' 4 4 = 0#4 ∧ decodeOp (opcOf w) (argOf w) = .ok i := by
  by_cases hhi : w.extractLsb' 24 8 = 0#8
  · by_cases hlo : w.extractLsb' 4 4 = 0#4 <;> simp [decode, hhi, hlo]
  · simp [decode, hhi]

/-- A word decodes to a command just when it is the command's encoding. -/
theorem decode_eq_ok_iff {w : Word} {i : Instr} : decode w = .ok i ↔ w = encode i := by
  rw [encode_eq_cmdWord]
  constructor
  · intro h
    obtain ⟨hhi, hlo, hop⟩ := decode_eq_ok_iff_fields.mp h
    obtain ⟨hopc, harg⟩ := decodeOp_eq_ok_iff.mp hop
    rw [← hopc, ← harg]
    exact eq_cmdWord hhi hlo
  · rintro rfl
    rw [decode_cmdWord]
    exact decodeOp_eq_ok_iff.mpr ⟨rfl, rfl⟩

/-- Settles O2: both directions of `decode_eq_ok_iff`. -/
theorem decodeAndEncodeAreInverse : Obligations.DecodeAndEncodeAreInverse :=
  ⟨fun _ => decode_eq_ok_iff.mpr rfl, fun _ _ h => (decode_eq_ok_iff.mp h).symm⟩

end Sys2Proof
end

section
/-! The assembler's words are the encoder's (R76). -/

namespace Sys2Proof.Machine

/-- The assembler joins SBOXRD's column and row as its ARG's fields stand (R68, R76). -/
theorem ofNat_sboxrd_argument {c i : Nat} (hc : c ≤ 3) (hi : i ≤ 1023) :
    BitVec.ofNat 16 (c <<< 10 ||| i) = 0#4 ++ BitVec.ofNat 2 c ++ BitVec.ofNat 10 i := by
  have hlt : c <<< 10 ||| i < 2 ^ 16 := Nat.or_lt_two_pow (by rw [Nat.shiftLeft_eq]; omega) (by omega)
  apply BitVec.eq_of_toNat_eq
  simp only [BitVec.toNat_append, BitVec.toNat_ofNat, Nat.mod_eq_of_lt hlt, Nat.mod_eq_of_lt (show c < 2 ^ 2 by omega),
    Nat.mod_eq_of_lt (show i < 2 ^ 10 by omega), Nat.zero_mod, Nat.zero_shiftLeft, Nat.zero_or]

theorem assemble_sboxrd {c i : Nat} (hc : c ≤ 3) (hi : i ≤ 1023) :
    assemble (.sboxrd c i) = some (encode (.sboxrd (BitVec.ofNat 2 c) (BitVec.ofNat 10 i))) := by
  have hwf : (AsmCmd.sboxrd c i).wellFormed = true := by simp [AsmCmd.wellFormed, hc, hi]
  have harg : c <<< 10 ||| i ≤ 65535 :=
    Nat.le_of_lt_succ (Nat.or_lt_two_pow (n := 16) (by rw [Nat.shiftLeft_eq]; omega) (by omega))
  rw [assemble, if_pos hwf, encode, ← ofNat_sboxrd_argument hc hi]
  exact congrArg some (ofNat_shift_or_eq_cmdWord harg 8)

/-- Settles O4: the shift-and-or of each statement is its command's word, and the range check refuses the rest. -/
theorem assemblerWordsAreTheCommands : Obligations.AssemblerWordsAreTheCommands := by
  refine ⟨⟨rfl, rfl, rfl, rfl, rfl⟩, fun n hn => ?_, fun n hn => ?_, fun c i => assemble_sboxrd, fun c i h => ?_,
    fun w => ?_⟩
  · have hwf : decide (n ≤ 65535) = true := decide_eq_true hn
    have hword := fun opc => congrArg some (ofNat_shift_or_eq_cmdWord hn opc)
    exact ⟨(if_pos hwf).trans (hword 1), (if_pos hwf).trans (hword 2), (if_pos hwf).trans (hword 3),
      (if_pos hwf).trans (hword 4)⟩
  · have hwf : ¬ decide (n ≤ 65535) = true := by simpa using hn
    exact ⟨if_neg hwf, if_neg hwf, if_neg hwf, if_neg hwf⟩
  · have hwf : ¬ (AsmCmd.sboxrd c i).wellFormed = true := by
      simp only [AsmCmd.wellFormed, Bool.and_eq_true, decide_eq_true_eq]
      omega
    exact if_neg hwf
  · have hwf : (AsmCmd.raw w.toNat).wellFormed = true := decide_eq_true w.isLt
    rw [assemble, if_pos hwf]
    exact congrArg some ((BitVec.ofNat_toNat 32 w).trans w.setWidth_eq)

end Sys2Proof.Machine
end

section
/-! Legal words, by R70's conditions. -/

namespace Sys2Proof.Machine

/-- A field as a number is the same field as bits (R9). -/
theorem slice_eq_toNat (w : Word) (hi lo : Nat) : slice w hi lo = (w.extractLsb' lo (hi + 1 - lo)).toNat := by
  rw [slice, BitVec.extractLsb'_toNat, Nat.shiftRight_eq_div_pow]

theorem slice_eq_zero_iff {w : Word} {hi lo : Nat} : slice w hi lo = 0 ↔ w.extractLsb' lo (hi + 1 - lo) = 0#_ := by
  rw [slice_eq_toNat, BitVec.toNat_eq]
  rfl

/-- ARG's upper four bits are bits 23 to 20 of the word (R68). -/
theorem extractLsb'_argOf (w : Word) : (argOf w).extractLsb' 12 4 = w.extractLsb' 20 4 := by
  apply BitVec.eq_of_getLsbD_eq
  intro i hi
  simp only [argOf, BitVec.getLsbD_extractLsb', show 12 + i < 16 by omega, decide_true, Bool.true_and, ← Nat.add_assoc]

theorem decodePlain_ok_iff {arg : BitVec 16} {i : Instr} : (∃ j, decodePlain arg i = .ok j) ↔ arg = 0#16 := by
  simp [decodePlain_eq_ok_iff]

theorem decodeSboxrd_ok_iff {arg : BitVec 16} : (∃ i, decodeSboxrd arg = .ok i) ↔ arg.extractLsb' 12 4 = 0#4 := by
  rw [decodeSboxrd]
  split <;> simp_all

/-- What R69 and R70 ask of an opcode and its ARG. -/
theorem decodeOp_ok_iff {opc : BitVec 4} {arg : BitVec 16} :
    (∃ i, decodeOp opc arg = .ok i) ↔
      opc.toNat < 0xA ∧ (opc.toNat ∈ [0x0, 0x5, 0x6, 0x7, 0x9] → arg = 0#16) ∧
        (opc.toNat = 0x8 → arg.extractLsb' 12 4 = 0#4) := by
  unfold decodeOp
  split
  case h_1 hopc | h_6 hopc | h_7 hopc | h_8 hopc | h_10 hopc => simp [hopc, decodePlain_ok_iff]
  case h_2 hopc | h_3 hopc | h_4 hopc | h_5 hopc => simp [hopc]
  case h_9 hopc => simp [hopc, decodeSboxrd_ok_iff]
  case h_11 =>
    simp only [reduceCtorEq, exists_false, false_iff]
    rintro ⟨hlt, -, -⟩
    simp only [imp_false] at *
    omega

/-- A word decodes unless one of R70's conditions holds. -/
theorem decode_ok_iff_not_illegal (w : Word) : (∃ i, decode w = .ok i) ↔ ¬ IllegalByR70 w := by
  have hopc : slice w 3 0 = (opcOf w).toNat := slice_eq_toNat w 3 0
  have harg : slice w 23 8 = 0 ↔ argOf w = 0#16 := slice_eq_zero_iff
  have hsbox : slice w 23 20 = 0 ↔ (argOf w).extractLsb' 12 4 = 0#4 := by
    rw [extractLsb'_argOf]
    exact slice_eq_zero_iff
  have hhigh : slice w 31 24 = 0 ↔ w.extractLsb' 24 8 = 0#8 := slice_eq_zero_iff
  have hlow : slice w 7 4 = 0 ↔ w.extractLsb' 4 4 = 0#4 := slice_eq_zero_iff
  simp only [decode_eq_ok_iff_fields, exists_and_left, decodeOp_ok_iff, IllegalByR70, not_or, not_and, not_not, not_le,
    hopc, harg, hsbox, hhigh, hlow]

end Sys2Proof.Machine
end

section
/-! Completions: the step that runs the word in flight, failures, and the codes (R70, R74, R132, R133). -/

namespace Sys2Proof.Machine

/-- A word that is no command completes with E_ILLEGAL (R70, R132). -/
theorem completePending_illegal {s : State} (h : IllegalByR70 s.pcmd) : completePending s = .next (s.complete .illegal) := by
  cases hd : decode s.pcmd with
  | error e => simp [completePending, hd]
  | ok i => exact absurd h ((decode_ok_iff_not_illegal s.pcmd).mp ⟨i, hd⟩)

/-- Settles O3, from the decoder's conditions, the acceptance and the illegal word's completion. -/
theorem illegalWordCompletesWithErrorOnly : Obligations.IllegalWordCompletesWithErrorOnly := by
  refine fun w => ⟨decode_ok_iff_not_illegal w, fun s => transfer_write_cmd w, fun s rest h hpcmd hat => ?_⟩
  subst hpcmd
  rw [step_atCompletion hat]
  exact completePending_illegal (s := { s with inputs := rest }) h

/-- Settles O6: the decoder's answer selects the completion's branch. -/
theorem stepRunsTheDecodedCommand : Obligations.StepRunsTheDecodedCommand := by
  refine ⟨fun s rest i hat hd => ?_, fun s w => ⟨⟨rfl, rfl, rfl, .inr rfl⟩, ?_⟩⟩
  · rw [step_atCompletion hat]
    simp [completePending, hd]
  · apply BitVec.eq_of_toNat_eq
    simp [State.withFetchWord, State.pendWord, tableWord]

/-- A command that fails completes with a code other than E_OK and has no other effect (R132). -/
theorem exec_failed {i : Instr} {s t : State} (h : exec i s = .next t) (herr : t.err ≠ .ok) : t = s.complete t.err := by
  obtain ⟨-, rfl⟩ | ⟨-, rfl⟩ := exec_next_cases h
  · exact absurd rfl herr
  · rfl

/-- A completion that fails, an illegal word's too, has no effect but its own (R132). -/
theorem completePending_failed {s t : State} (h : completePending s = .next t) (herr : t.err ≠ .ok) :
    t = s.complete t.err := by
  cases hd : decode s.pcmd with
  | error e =>
    simp only [completePending, hd, Host.Outcome.next.injEq] at h
    subst h
    rfl
  | ok i =>
    simp only [completePending, hd] at h
    exact exec_failed h herr

/-- Settles O9: the step is the completion, and a failed one is the status alone. -/
theorem failedCommandChangesOnlyStatus : Obligations.FailedCommandChangesOnlyStatus := by
  intro s t rest hat hstep herr
  rw [step_atCompletion hat] at hstep
  obtain ⟨-, hinit, -, -⟩ := hat
  exact ⟨completePending_failed hstep herr, completePending_idle (s := { s with inputs := rest }) hinit hstep⟩

/-- Settles O8: the completion's frame, and the code of each command's check. -/
theorem everyCommandCompletesWithItsOwnCodes : Obligations.EveryCommandCompletesWithItsOwnCodes := by
  intro i s
  obtain ⟨t, ht, hfl, hdone, hinit, -⟩ := exec_completes i s
  refine ⟨t, ht, hdone, hfl, hinit, ?_⟩
  have herr : t.err = completionCode i s := by
    obtain ⟨hok, rfl⟩ | ⟨-, rfl⟩ := exec_next_cases ht
    · exact hok.symm
    · rfl
  rw [herr]
  cases i with
  | nop | perm32 | sboxrd | ftest => exact List.mem_singleton.mpr rfl
  | config | setkey | encrypt | decrypt | gfmul | gfexp7 =>
    simp only [completionCode]
    split <;> simp

/-- Settles O1: the words are computed, and ENCRYPT 7 is refused by its length check. -/
theorem specWordsDecodeAsTheSpecSays : Obligations.SpecWordsDecodeAsTheSpecSays := by
  refine ⟨by decide, by decide, by decide, by decide, by decide, ⟨by decide, by decide, fun s => ?_⟩, by decide,
    by decide, by decide, by decide, by decide⟩
  rw [exec_encrypt]
  rfl

end Sys2Proof.Machine
end

section
/-! Levels whose key no SETKEY word can claim (R68, R81, R108; log 15). -/

namespace Sys2Proof.Machine

/-- A level's KEYLEN is 8 bytes for each of SIZE's units, and thin mode's SIZE is 1, so a 16-bit ARG equals no KEYLEN of a SIZE
above 8191 (R81, R68). -/
theorem State.Inv.setkey_ne_keylen {s : State} (h : s.Inv) (hsize : 8192 ≤ s.size.toNat) (len : BitVec 16) :
    len.setWidth 32 ≠ s.keylen := by
  obtain ⟨hthin, -, -⟩ | ⟨-, -, -, hkeylen⟩ := h.level
  · rw [hthin] at hsize
    exact absurd hsize (by decide)
  · intro heq
    rw [← heq, BitVec.toNat_setWidth] at hkeylen
    omega

/-- Settles O26: SETKEY's length check fails. -/
theorem levelsAbove8191CannotBeKeyed : Obligations.LevelsAbove8191CannotBeKeyed := by
  intro s len h hsize
  rw [exec_setkey, if_pos (h.setkey_ne_keylen hsize len)]
  rfl

end Sys2Proof.Machine
end

section
/-! Acceptance, and what a command in flight keeps until it completes (R73, R74, R149). -/

namespace Sys2Proof.Machine

/-- Settles O7: CMD's write is blocked by BUSY, and accepted otherwise. -/
theorem commandWriteIsAcceptedOrDropped : Obligations.CommandWriteIsAcceptedOrDropped := by
  intro s v
  by_cases h : s.inflight = true ∨ s.initialising = true
  · have hbusy : s.busy = true := Bool.or_eq_true_iff.mpr h
    rw [if_pos h, transfer_write_blocked v hbusy rfl]
    exact ⟨rfl, hbusy⟩
  · have hidle : s.busy = false := Bool.eq_false_iff.mpr fun hbusy => h (Bool.or_eq_true_iff.mp hbusy)
    rw [if_neg h, transfer_write_cmd v hidle]
    exact ⟨rfl, rfl⟩

/-- A write to a register that BUSY does not block is to STATUS or CTRL, or is ignored (R149). -/
theorem performWrite_unblocked {r : Reg} (v : Word) (s : State) (h : r.blockedWhileBusy = false) :
    ∃ (done ovr ie : Bool), s.performWrite r v = { s with done := done, ovr := ovr, ie := ie } := by
  cases r with
  | status | ctrl | size | rounds | keylen | nmax | id | dout0 | dout1 | gfRes | permOut | sboxOut | fOut | reserved =>
    exact ⟨_, _, _, rfl⟩
  | cmd | din0 | din1 | gfA | gfB | gfM | permIn | fIn | sk0 | sk1 | sk2 | keybuf => cases h

/-- Settles O52: a read is on the port alone, a blocked write sets OVR, and an unblocked one is to STATUS or CTRL. -/
theorem operandsAreFrozenInFlight : Obligations.OperandsAreFrozenInFlight := by
  intro s t a hfl h
  have hbusy : s.busy = true := by simp [State.busy, hfl]
  obtain ⟨-, rfl | rfl⟩ := serveAccess_next_cases h
  · rfl
  · obtain ⟨-, reply, draws, ht⟩ | ⟨v, -, -, -, ht⟩ | ⟨v, -, hidle | hfree, ht⟩ :=
      transfer_cases (a.addr - s.cfg.base) a.kind s
    · rw [ht]
    · rw [ht]
      rfl
    · exact absurd (hbusy.symm.trans hidle) (by decide)
    · obtain ⟨done, ovr, ie, hw⟩ := performWrite_unblocked v s hfree
      rw [ht, hw]

end Sys2Proof.Machine
end

section
/-! Completion comes: a run through the inputs, and one move more (R75, R147). -/

namespace Sys2Proof.Machine

/-- A step consumes the first input, if there is one. -/
theorem step_inputs {s t : State} (h : step s = .next t) : t.inputs = s.inputs.tail := by
  obtain ⟨hin, hs⟩ | ⟨a, rest, hin, hs⟩ | ⟨rest, hin, hs⟩ | ⟨level, rest, hin, hs⟩ := step_cases s <;> rw [hin] <;>
    rw [hs] at h
  · obtain ⟨u, hu, huin, -⟩ := coreMove_frame s
    cases h.symm.trans hu
    exact huin.trans hin
  · obtain ⟨-, rfl | rfl⟩ := serveAccess_next_cases h
    · rfl
    · exact (transfer_frame _ a.kind { s with inputs := rest }).1
  · obtain ⟨u, hu, huin, -⟩ := coreMove_frame { s with inputs := rest }
    cases h.symm.trans hu
    exact huin
  · cases h
    exact setRst_inputs level _

/-- One move of the sequencer leaves a core of the invariant idle, unless it is held in reset: nothing is in flight when the
initialisation ends, and a command in flight completes (R74, R147). -/
theorem State.Inv.coreMove_idle {s t : State} (h : s.Inv) (hm : Machine.coreMove s = .next t) (hr : t.rst = false) :
    t.busy = false := by
  obtain ⟨hrst, hs⟩ | ⟨-, hinit, hs⟩ | ⟨hrst, hinit, hfl, -⟩ | ⟨-, hb, hs⟩ := coreMove_cases s
  · cases hs.symm.trans hm
    exact absurd (hr.symm.trans hrst) (by decide)
  · cases hs.symm.trans hm
    obtain ⟨hfl, -⟩ := h.init hinit
    simp [State.busy, hfl]
  · have hc : completePending s = .next t := by simpa [Machine.coreMove, hrst, hinit, hfl] using hm
    exact completePending_idle hinit hc
  · cases hs.symm.trans hm
    exact hb

/-- Settles O54, by induction on the inputs. -/
theorem coreIsIdleOneStepAfterItsInputs : Obligations.CoreIsIdleOneStepAfterItsInputs := by
  intro s h hduty
  induction hin : s.inputs generalizing s with
  | nil =>
    obtain ⟨t, ht, hempty, -⟩ := coreMove_frame s
    exact ⟨t, run_succ 0 ((step_nil hin).trans ht), hempty.trans hin, h.coreMove_idle ht⟩
  | cons x rest ih =>
    obtain ⟨t, ht, htduty⟩ := hduty.step
    have hrest : t.inputs = rest := by rw [step_inputs ht, hin, List.tail_cons]
    rw [List.length_cons, run_succ _ ht]
    exact ih t (everyStepKeepsTheInvariant s t h ht) htduty hrest

end Sys2Proof.Machine
end

section
/-! NOP and CONFIG (R81 to R83), and the driver's `new` (R121). -/

namespace Sys2Proof.Machine

/-! NOP. -/

/-- Only the zero word is a legal word of opcode 0 (R70, R82). -/
theorem illegalByR70_of_opcode_zero {w : Word} (hopc : slice w 3 0 = 0) (hw : w ≠ 0) : IllegalByR70 w := by
  by_contra hlegal
  obtain ⟨i, hd⟩ := (decode_ok_iff_not_illegal w).mpr hlegal
  obtain rfl := decode_eq_ok_iff.mp hd
  have hzero : Laws.Fields.opcode i = 0 := by
    have h := slice_eq_zero_iff.mp hopc
    rw [encode_eq_cmdWord] at h
    exact (opcOf_cmdWord (argument i) _).symm.trans h
  cases i with
  | nop => exact hw rfl
  | config | setkey | encrypt | decrypt | gfmul | gfexp7 | perm32 | sboxrd | ftest => simp [Laws.Fields.opcode] at hzero

/-- Settles O10: the completion of NOP, its word, and R70's conditions for the others of its opcode. -/
theorem nopOnlyCompletes : Obligations.NopOnlyCompletes := by
  refine ⟨exec_nop, rfl, rfl, fun w s hopc hw hpcmd => ?_⟩
  subst hpcmd
  exact completePending_illegal (illegalByR70_of_opcode_zero hopc hw)

/-! CONFIG. -/

/-- N_MAX fits the ARG of a CONFIG (D4). -/
theorem nMax_le (p : Params) : p.nMax ≤ 65535 := by
  rw [Params.nMax]
  omega

/-- A level n ≥ 1 (R81). -/
theorem levelConfig_of_ne_zero {n : Nat} (h : n ≠ 0) : levelConfig n = ⟨n, 16 * n, 8 * n⟩ := if_neg h

/-- SIZE and ROUNDS hold a level's numbers in full (R81). -/
theorem levelConfig_registers {n : Nat} (hn : n ≤ 65535) :
    (BitVec.ofNat 32 (levelConfig n).size).toNat = max 1 n ∧
      (BitVec.ofNat 32 (levelConfig n).rounds).toNat = if n = 0 then 8 else 16 * n := by
  obtain rfl | hpos := Nat.eq_zero_or_pos n
  · exact ⟨rfl, rfl⟩
  · rw [levelConfig_of_ne_zero hpos.ne', if_neg hpos.ne', BitVec.toNat_ofNat, BitVec.toNat_ofNat]
    dsimp only
    omega

/-- Settles O11: a refused level, level 0, and a level n ≥ 1. -/
theorem configBuildsTheLevel : Obligations.ConfigBuildsTheLevel := by
  intro n s
  rw [exec_config]
  split
  case isTrue => rfl
  case isFalse =>
    split
    case isTrue hzero =>
      subst hzero
      rfl
    case isFalse hne =>
      have hlevel : n.toNat ≠ 0 := fun h => hne (BitVec.eq_of_toNat_eq h)
      simp only [State.configure, levelConfig_of_ne_zero hlevel, BitVec.ofNat_mul, BitVec.ofNat_toNat]
      rfl

/-- CONFIG of a level within N_MAX (R83). -/
theorem exec_config_supported {n : Nat} {s : State} (hle : n ≤ s.cfg.nMax) :
    exec (.config (BitVec.ofNat 16 n)) s = .next ((s.configure (levelConfig n)).complete .ok) := by
  have harg : (BitVec.ofNat 16 n).toNat = n := Nat.mod_eq_of_lt (by have := nMax_le s.cfg; omega)
  rw [exec_config, harg, if_neg hle.not_gt]

/-- CONFIG of a level above N_MAX that fits its ARG (R83). -/
theorem exec_config_unsupported {n : Nat} {s : State} (hn : n ≤ 65535) (hlt : s.cfg.nMax < n) :
    exec (.config (BitVec.ofNat 16 n)) s = .next (s.complete .level) := by
  have harg : (BitVec.ofNat 16 n).toNat = n := Nat.mod_eq_of_lt (by omega)
  rw [exec_config, harg, if_pos hlt]

/-! The driver's `new`. -/

theorem assemble_config {n : Nat} (hn : n ≤ 65535) : assemble (.config n) = some (cmdWord (BitVec.ofNat 16 n) 1) := by
  have hwf : (AsmCmd.config n).wellFormed = true := decide_eq_true hn
  rw [assemble, if_pos hwf]
  exact congrArg some (ofNat_shift_or_eq_cmdWord hn 1)

theorem assemble_config_none {n : Nat} (hn : 65535 < n) : assemble (.config n) = none := by
  have hwf : ¬ (AsmCmd.config n).wellFormed = true := by simpa [AsmCmd.wellFormed] using hn
  rw [assemble, if_neg hwf]

theorem decode_config (n : BitVec 16) : decode (cmdWord n 1) = .ok (.config n) := by
  rw [decode_cmdWord]
  rfl

/-- `new` on an idle core, of a level a command carries: CONFIG runs, and its code is reported. -/
theorem libNew_idle {level : Nat} {s t : State} (hr : s.rst = false) (hb : s.busy = false) (hn : level ≤ 65535)
    (he : exec (.config (BitVec.ofNat 16 level)) { s.accept (cmdWord (BitVec.ofNat 16 level) 1) with reply := .written } =
      .next t) :
    libNew level s = (errReport t.err, { t with reply := .data t.statusWord }) := by
  rw [libNew, runReport_idle hr hb (assemble_config hn) (decode_config _) he, Option.getD_some]

/-- `new` of a level within N_MAX: done, with the level's configuration and a zeroed schedule. -/
theorem libNew_supported {level : Nat} {s : State} (hr : s.rst = false) (hb : s.busy = false) (hle : level ≤ s.cfg.nMax) :
    ∃ t, libNew level s = (.done, t) ∧ t.size = BitVec.ofNat 32 (levelConfig level).size ∧
      t.rounds = BitVec.ofNat 32 (levelConfig level).rounds ∧ t.ks = [] :=
  ⟨_, libNew_idle hr hb (hle.trans (nMax_le s.cfg)) (exec_config_supported hle), rfl, rfl, rfl⟩

/-- `new` of a level above N_MAX: reported unsupported, by the core where a command carries it and by the driver where none
does, and the configuration and the schedule stay. -/
theorem libNew_unsupported {level : Nat} {s : State} (hr : s.rst = false) (hb : s.busy = false) (hlt : s.cfg.nMax < level) :
    ∃ t, libNew level s = (.unsupportedLevel, t) ∧ t.size = s.size ∧ t.rounds = s.rounds ∧ t.ks = s.ks := by
  by_cases hn : level ≤ 65535
  · exact ⟨_, libNew_idle hr hb hn (exec_config_unsupported hn hlt), rfl, rfl, rfl⟩
  · rw [libNew, runReport, assemble_config_none (not_le.mp hn)]
    exact ⟨s, rfl, rfl, rfl, rfl⟩

/-- Settles O57: a level the core accepts, whose registers are R81's, and a level it or the driver refuses. -/
theorem driverNewBuildsOrReportsTheLevel : Obligations.DriverNewBuildsOrReportsTheLevel := by
  refine fun s level _ hr hb => ⟨fun hle => ?_, fun hlt => ?_⟩
  · obtain ⟨t, hnew, hsize, hrounds, hks⟩ := libNew_supported hr hb hle
    obtain ⟨hsize', hrounds'⟩ := levelConfig_registers (hle.trans (nMax_le s.cfg))
    rw [hnew, hsize, hrounds]
    exact ⟨rfl, hsize', hrounds', hks⟩
  · obtain ⟨t, hnew, hframe⟩ := libNew_unsupported hr hb hlt
    rw [hnew]
    exact ⟨rfl, hframe⟩

end Sys2Proof.Machine
end

section
/-! GF(2^8) (41_gf_arith). The loop of R86 is the sum of the doublings of `a` that the bits of `b` select. A map that keeps
sums and doublings is therefore the multiplication by its value at 1, and the laws of R87 follow from that. -/

namespace Sys2Proof.Machine

/-! Doubling: the product with the polynomial x, reduced. -/

/-- One shift of R86's loop, as a map of bytes. -/
def gfDouble (m : Modulus) (x : Byte) : Byte := (gfFold m (x.setWidth 9)).setWidth 8

theorem le_shiftLeft_iff_msb (x : Byte) : (256 : Modulus) ≤ x.setWidth 9 <<< 1 ↔ x.msb = true := by
  rw [BitVec.msb_eq_decide, decide_eq_true_iff]
  bv_omega

/-- The fold of R86 happens when the bit shifted out of the byte is set. -/
theorem gfFold_setWidth (m : Modulus) (x : Byte) :
    gfFold m (x.setWidth 9) = x.setWidth 9 <<< 1 ^^^ if x.msb then m else 0 :=
  (if_congr (le_shiftLeft_iff_msb x) rfl rfl).trans (by split <;> simp)

theorem gfDouble_eq (m : Modulus) (x : Byte) :
    gfDouble m x = x <<< 1 ^^^ if x.msb then m.setWidth 8 else 0 := by
  have hshift : (x.setWidth 9 <<< 1).setWidth 8 = x <<< 1 := by bv_omega
  rw [gfDouble, gfFold_setWidth, BitVec.setWidth_xor, hshift]
  split <;> rfl

/-- With a valid modulus the fold brings the working value back below 256. -/
theorem setWidth_gfDouble {m : Modulus} (hm : m.getLsbD 8 = true) (x : Byte) :
    (gfDouble m x).setWidth 9 = gfFold m (x.setWidth 9) := by
  have htop : (gfFold m (x.setWidth 9)).toNat < 256 := by
    have hbit : (gfFold m (x.setWidth 9)).msb = false := by
      rw [gfFold_setWidth, BitVec.msb_eq_getLsbD_last, BitVec.getLsbD_xor]
      cases hx : x.msb <;> simp_all [BitVec.msb_eq_getLsbD_last]
    exact BitVec.toNat_lt_of_msb_false hbit
  exact BitVec.setWidth_setWidth_eq_self htop

/-! Linear maps of bytes. -/

/-- The map keeps sums, which are XORs. -/
def XorLinear (f : Byte → Byte) : Prop := ∀ x y, f (x ^^^ y) = f x ^^^ f y

theorem XorLinear.map_zero {f : Byte → Byte} (hf : XorLinear f) : f 0 = 0 := by
  have h := hf 0 0
  rwa [BitVec.xor_self, BitVec.xor_self] at h

theorem XorLinear.map_ite {f : Byte → Byte} (hf : XorLinear f) (c : Prop) [Decidable c] (x : Byte) :
    f (if c then x else 0) = if c then f x else 0 := by
  rw [apply_ite f, hf.map_zero]

theorem XorLinear.iterate {f : Byte → Byte} (hf : XorLinear f) (n : Nat) : XorLinear f^[n] := by
  induction n with
  | zero => exact fun _ _ => rfl
  | succ n ih => intro x y; simp only [Function.iterate_succ_apply', ih x y, hf (f^[n] x)]

/-- A condition on two summands at once. -/
theorem ite_xor_ite {w : Nat} (p q : Bool) (x : BitVec w) :
    (if p ^^ q then x else 0) = (if p then x else 0) ^^^ if q then x else 0 := by
  cases p <;> cases q <;> simp

theorem xorLinear_gfDouble (m : Modulus) : XorLinear (gfDouble m) := by
  intro x y
  simp only [gfDouble_eq, BitVec.msb_xor, BitVec.shiftLeft_xor_distrib, ite_xor_ite]
  ac_rfl

/-! The product as a sum. -/

/-- The sum of the first `n` doublings of `a` that the bits of `b` select. -/
def gfSum (m : Modulus) (a b : Byte) : Nat → Byte
  | 0 => 0
  | n + 1 => gfSum m a b n ^^^ if b.getLsbD n then (gfDouble m)^[n] a else 0

/-- A linear map that commutes with doubling passes through the sum. -/
theorem XorLinear.map_gfSum {f : Byte → Byte} {m : Modulus} (hf : XorLinear f) (hcomm : Function.Commute f (gfDouble m))
    (a b : Byte) (n : Nat) : f (gfSum m a b n) = gfSum m (f a) b n := by
  induction n with
  | zero => exact hf.map_zero
  | succ n ih => rw [gfSum, hf, ih, hf.map_ite, hcomm.iterate_right n a, gfSum]

theorem xorLinear_gfSum (m : Modulus) (b : Byte) (n : Nat) : XorLinear (gfSum m · b n) := by
  intro x y
  induction n with
  | zero => exact BitVec.xor_self.symm
  | succ n ih =>
    simp only [gfSum] at ih ⊢
    rw [ih, (xorLinear_gfDouble m).iterate n x y]
    split
    · ac_rfl
    · simp

theorem iterate_gfDouble_one (m : Modulus) {n : Nat} (hn : n < 8) : (gfDouble m)^[n] 1 = BitVec.twoPow 8 n := by
  induction n with
  | zero => rfl
  | succ n ih =>
    have hmsb : (BitVec.twoPow 8 n).msb = false := by
      rw [BitVec.msb_twoPow, decide_eq_true (Nat.lt_of_succ_lt hn), Bool.true_and, decide_eq_false (by omega)]
    rw [Function.iterate_succ_apply', ih (Nat.lt_of_succ_lt hn), gfDouble_eq, hmsb, BitVec.twoPow_eq, BitVec.twoPow_eq,
      ← BitVec.shiftLeft_add]
    exact BitVec.xor_zero

theorem getLsbD_gfSum_one (m : Modulus) (b : Byte) {n : Nat} (hn : n ≤ 8) (i : Nat) :
    (gfSum m 1 b n).getLsbD i = (decide (i < n) && b.getLsbD i) := by
  induction n with
  | zero => simp [gfSum]
  | succ n ih =>
    have hterm : (if b.getLsbD n then BitVec.twoPow 8 n else 0) = b &&& BitVec.twoPow 8 n := (BitVec.and_twoPow b n).symm
    rw [gfSum, iterate_gfDouble_one m hn, hterm, BitVec.getLsbD_xor, BitVec.getLsbD_and, BitVec.getLsbD_twoPow,
      ih (Nat.le_of_lt hn), decide_eq_true (Nat.lt_of_succ_le hn)]
    obtain hlt | rfl | hgt := lt_trichotomy i n
    · simp [hlt, hlt.ne', Nat.lt_succ_of_lt hlt]
    · simp
    · simp [hgt.not_gt, hgt.ne, Nat.not_lt.mpr hgt]

/-- The sum of the doublings of 1 that `b` selects is `b`. -/
theorem gfSum_one (m : Modulus) (b : Byte) : gfSum m 1 b 8 = b :=
  BitVec.eq_of_getLsbD_eq fun i hi => by rw [getLsbD_gfSum_one m b le_rfl, decide_eq_true hi, Bool.true_and]

theorem gfMulLoop_zero (m : Modulus) (n : Nat) (res : Byte) (x : Modulus) : gfMulLoop m n res x 0 = res := by
  cases n <;> rfl

/-- R86's loop without its early end: with no bit of `y` left the remaining rounds change nothing. -/
theorem gfMulLoop_succ (m : Modulus) (n : Nat) (res : Byte) (x : Modulus) (y : Byte) :
    gfMulLoop m (n + 1) res x y =
      gfMulLoop m n (res ^^^ if y.getLsbD 0 then x.setWidth 8 else 0) (gfFold m x) (y >>> 1) := by
  by_cases hy : y = 0
  · subst hy
    rw [gfMulLoop_zero, show (0 : Byte) >>> 1 = 0 from rfl, gfMulLoop_zero]
    exact BitVec.xor_zero.symm
  · rw [gfMulLoop, if_neg hy]
    split <;> simp

/-- R86's loop, begun after `k` of its rounds. -/
theorem gfMulLoop_eq_gfSum {m : Modulus} (hm : m.getLsbD 8 = true) (a b : Byte) (n k : Nat) :
    gfMulLoop m n (gfSum m a b k) (((gfDouble m)^[k] a).setWidth 9) (b >>> k) = gfSum m a b (k + n) := by
  induction n generalizing k with
  | zero => rfl
  | succ n ih =>
    have hround : gfSum m a b k ^^^ (if (b >>> k).getLsbD 0 then (((gfDouble m)^[k] a).setWidth 9).setWidth 8 else 0) =
        gfSum m a b (k + 1) := by
      simp [gfSum]
    rw [gfMulLoop_succ, hround, ← setWidth_gfDouble hm, ← Function.iterate_succ_apply' (gfDouble m), ← BitVec.shiftRight_add,
      ih, Nat.add_right_comm, Nat.add_assoc]

theorem gfMul_eq_gfSum {m : Modulus} (hm : m.getLsbD 8 = true) (a b : Byte) : gfMul a b m = gfSum m a b 8 :=
  gfMulLoop_eq_gfSum hm a b 8 0

/-! The laws of R87. -/

section
variable {m : Modulus} (hm : m.getLsbD 8 = true)
include hm

theorem gfMul_one_left (b : Byte) : gfMul 1 b m = b := (gfMul_eq_gfSum hm 1 b).trans (gfSum_one m b)

theorem xorLinear_gfMul (b : Byte) : XorLinear (gfMul · b m) := by
  simp only [gfMul_eq_gfSum hm]
  exact xorLinear_gfSum m b 8

theorem gfMul_commute_gfDouble (b : Byte) : Function.Commute (gfMul · b m) (gfDouble m) := by
  intro x
  simp only [gfMul_eq_gfSum hm]
  exact ((xorLinear_gfDouble m).map_gfSum (.refl _) x b 8).symm

/-- A linear map that commutes with doubling is the multiplication by its value at 1. -/
theorem XorLinear.eq_gfMul {f : Byte → Byte} (hf : XorLinear f) (hcomm : Function.Commute f (gfDouble m)) (a : Byte) :
    f a = gfMul (f 1) a m := by
  rw [gfMul_eq_gfSum hm, ← hf.map_gfSum hcomm, gfSum_one]

theorem gfMul_comm (a b : Byte) : gfMul a b m = gfMul b a m := by
  have h := (xorLinear_gfMul hm b).eq_gfMul hm (gfMul_commute_gfDouble hm b) a
  rwa [gfMul_one_left hm] at h

theorem gfMul_assoc (a b c : Byte) : gfMul (gfMul a b m) c m = gfMul a (gfMul b c m) m := by
  have hlin : XorLinear ((gfMul · c m) ∘ (gfMul · b m)) := fun x y => by
    simp only [Function.comp_apply, xorLinear_gfMul hm b x y, xorLinear_gfMul hm c _ _]
  have h := hlin.eq_gfMul hm ((gfMul_commute_gfDouble hm c).comp_left (gfMul_commute_gfDouble hm b)) a
  simp only [Function.comp_apply, gfMul_one_left hm] at h
  rw [h, gfMul_comm hm]

theorem gfMul_zero_left (b : Byte) : gfMul 0 b m = 0 := (xorLinear_gfMul hm b).map_zero

end

/-- Settles O13: multiplication by `b` is linear and commutes with doubling, which determines it by its value at 1. -/
theorem gfMultiplyIsARing : Obligations.GfMultiplyIsARing := by
  intro a b c m hm
  refine ⟨gfMul_comm hm a b, gfMul_assoc hm a b c, gfMul_zero_left hm b, ?_, gfMul_one_left hm b, ?_,
    xorLinear_gfMul hm b a c⟩
  · rw [gfMul_comm hm, gfMul_zero_left hm]
  · rw [gfMul_comm hm, gfMul_one_left hm]

/-! The seventh power. -/

/-- `exp7` of R88 is the seventh power; its special case of 0 is no exception. -/
theorem gfExp7_eq_foldl {m : Modulus} (hm : m.getLsbD 8 = true) (a : Byte) :
    gfExp7 a m = (List.replicate 6 a).foldl (fun x b => gfMul x b m) a := by
  have hchain : gfExp7 a m = gfMul a (gfMul (gfMul a (gfMul a a m) m) (gfMul a (gfMul a a m) m) m) m := by
    rw [gfExp7]
    split
    case isTrue h0 => rw [h0, gfMul_zero_left hm]
    case isFalse => rfl
  simp only [hchain, List.replicate_succ, List.replicate_zero, List.foldl_cons, List.foldl_nil, gfMul_assoc hm]

/-- Settles O14: R90's check of the modulus, and R88's chain of products regrouped by associativity. -/
theorem gfexp7WritesTheSeventhPower : Obligations.Gfexp7WritesTheSeventhPower := by
  refine fun s => ⟨fun hm => ?_, fun hm => ?_⟩
  · rw [exec_gfexp7, validModulus, hm, gfExp7_eq_foldl hm]
    rfl
  · rw [exec_gfexp7, validModulus, hm]
    rfl

end Sys2Proof.Machine
end

section
/-! GFMUL and the carry-less product (R87 (a), R89). A shift of the loop takes away the modulus or nothing, so the loop's sum
differs from the carry-less product by a multiple of the modulus. -/

namespace Sys2Proof.Machine

/-! Carry-less products and multiples. -/

theorem clmul_xor (a b c n : Nat) : clmul a (b ^^^ c) n = clmul a b n ^^^ clmul a c n := by
  induction n with
  | zero => exact (Nat.xor_self 0).symm
  | succ n ih =>
    have hterm : (if b.testBit n ^^ c.testBit n then a <<< n else 0) =
        (if b.testBit n then a <<< n else 0) ^^^ if c.testBit n then a <<< n else 0 := by
      cases b.testBit n <;> cases c.testBit n <;> simp
    rw [clmul, clmul, clmul, ih, Nat.testBit_xor, hterm]
    ac_rfl

theorem clmul_shiftLeft (a b n : Nat) : clmul a (b <<< 1) (n + 1) = clmul a b n <<< 1 := by
  induction n with
  | zero => simp [clmul]
  | succ n ih =>
    rw [clmul, ih, clmul, Nat.shiftLeft_xor_distrib]
    congr 1
    simp [Nat.shiftLeft_add, apply_ite (· <<< 1)]

theorem clmul_succ_of_lt {a b n : Nat} (h : b < 2 ^ n) : clmul a b (n + 1) = clmul a b n := by
  rw [clmul, Nat.testBit_lt_two_pow h]
  exact Nat.xor_zero _

/-- A carry-less multiple of `m`, by a factor of `n` bits. -/
def IsMultiple (m n x : Nat) : Prop := ∃ q < 2 ^ n, x = clmul m q n

section
variable {m n x y : Nat}

theorem isMultiple_zero (m n : Nat) : IsMultiple m n 0 := by
  refine ⟨0, Nat.two_pow_pos n, ?_⟩
  simpa using (clmul_xor m 0 0 n).symm

theorem IsMultiple.xor (hx : IsMultiple m n x) (hy : IsMultiple m n y) : IsMultiple m n (x ^^^ y) := by
  obtain ⟨p, hp, rfl⟩ := hx
  obtain ⟨q, hq, rfl⟩ := hy
  exact ⟨p ^^^ q, Nat.xor_lt_two_pow hp hq, (clmul_xor m p q n).symm⟩

theorem IsMultiple.succ (hx : IsMultiple m n x) : IsMultiple m (n + 1) x := by
  obtain ⟨q, hq, rfl⟩ := hx
  exact ⟨q, hq.trans (Nat.pow_lt_pow_succ one_lt_two), (clmul_succ_of_lt hq).symm⟩

theorem IsMultiple.shiftLeft (hx : IsMultiple m n x) : IsMultiple m (n + 1) (x <<< 1) := by
  obtain ⟨q, hq, rfl⟩ := hx
  exact ⟨q <<< 1, by rw [Nat.shiftLeft_eq]; omega, (clmul_shiftLeft m q n).symm⟩

theorem isMultiple_self (m n : Nat) : IsMultiple m (n + 1) m := by
  induction n with
  | zero => exact ⟨1, one_lt_two, by simp [clmul]⟩
  | succ n ih => exact ih.succ

end

/-! The loop of R86. -/

/-- Doubling subtracts the modulus from the shifted byte, or nothing. -/
theorem isMultiple_gfDouble {m : Modulus} (hm : m.getLsbD 8 = true) (x : Byte) (n : Nat) :
    IsMultiple m.toNat (n + 1) (x.toNat <<< 1 ^^^ (gfDouble m x).toNat) := by
  have hfold : (gfDouble m x).toNat = x.toNat <<< 1 ^^^ (if x.msb then m else 0).toNat := by
    rw [← BitVec.toNat_setWidth_of_le (w := 8) (w' := 9) (by decide), setWidth_gfDouble hm, gfFold_setWidth, BitVec.toNat_xor]
    congr 1
    bv_omega
  rw [hfold, ← Nat.xor_assoc, Nat.xor_self, Nat.zero_xor]
  split
  · exact isMultiple_self _ n
  · exact isMultiple_zero _ _

theorem isMultiple_iterate_gfDouble {m : Modulus} (hm : m.getLsbD 8 = true) (a : Byte) (n : Nat) :
    IsMultiple m.toNat n (a.toNat <<< n ^^^ ((gfDouble m)^[n] a).toNat) := by
  induction n with
  | zero => simpa using isMultiple_zero m.toNat 0
  | succ n ih =>
    have h := ih.shiftLeft.xor (isMultiple_gfDouble hm ((gfDouble m)^[n] a) n)
    rw [Nat.shiftLeft_xor_distrib, ← Nat.shiftLeft_add, Nat.xor_assoc, Nat.xor_xor_cancel_left] at h
    rwa [Function.iterate_succ_apply']

/-- The carry-less product is the sum of the doublings, up to a multiple of the modulus. -/
theorem isMultiple_gfSum {m : Modulus} (hm : m.getLsbD 8 = true) (a b : Byte) (n : Nat) :
    IsMultiple m.toNat n (clmul a.toNat b.toNat n ^^^ (gfSum m a b n).toNat) := by
  induction n with
  | zero => simpa [clmul, gfSum] using isMultiple_zero m.toNat 0
  | succ n ih =>
    rw [clmul, gfSum, BitVec.testBit_toNat]
    split
    · have h := ih.succ.xor (isMultiple_iterate_gfDouble hm a n).succ
      rw [BitVec.toNat_xor]
      convert h using 1
      ac_rfl
    · simpa using ih.succ

/-- Settles O12: each round of the loop changes the working value by a multiple of the modulus only. -/
theorem gfmulWritesTheCarrylessRemainder : Obligations.GfmulWritesTheCarrylessRemainder := by
  refine fun s => ⟨fun hm => ?_, fun hm => ?_⟩
  · obtain ⟨q, hq, hclmul⟩ := isMultiple_gfSum hm s.gfA s.gfB 8
    refine ⟨gfMul s.gfA s.gfB s.gfM, BitVec.ofNat 8 q, ?_, ?_⟩
    · rw [exec_gfmul, validModulus, hm]
      rfl
    · rw [gfMul_eq_gfSum hm, BitVec.toNat_ofNat, Nat.mod_eq_of_lt hq, ← hclmul, Nat.xor_assoc, Nat.xor_self, Nat.xor_zero]
  · rw [exec_gfmul, validModulus, hm]
    rfl

end Sys2Proof.Machine
end

section
/-! The permutation network moves bits (R91, R92): `permute32` is its table read as a map of bit positions, and that map
permutes the positions 0 to 31. -/

namespace Sys2Proof.Machine

/-! The table. -/

/-- The "bit" column of R91: where input bit `i` goes. -/
def pboxPosition (i : Nat) : Nat :=
  ([0, 7, 10, 13, 19, 21, 24, 30] ++ [3, 5, 8, 14, 16, 23, 26, 29] ++
    [2, 4, 9, 15, 17, 22, 27, 28] ++ [1, 6, 11, 12, 18, 20, 25, 31]).getD i 0

theorem pbox_eq_twoPow {i : Nat} (hi : i < 32) : pbox i = BitVec.twoPow 32 (pboxPosition i) :=
  (by decide : ∀ i < 32, pbox i = BitVec.twoPow 32 (pboxPosition i)) i hi

/-- Every bit position stands in the column, once. -/
theorem map_pboxPosition_perm : ((List.range 32).map pboxPosition).Perm (List.range 32) := by decide

theorem pboxPosition_lt {i : Nat} (hi : i < 32) : pboxPosition i < 32 :=
  List.mem_range.mp (map_pboxPosition_perm.subset (List.mem_map_of_mem (List.mem_range.mpr hi)))

theorem exists_pboxPosition_eq {j : Nat} (hj : j < 32) : ∃ i < 32, pboxPosition i = j := by
  simpa using map_pboxPosition_perm.symm.subset (List.mem_range.mpr hj)

theorem pboxPosition_inj {i k : Nat} (hi : i < 32) (hk : k < 32) (h : pboxPosition i = pboxPosition k) : i = k :=
  List.inj_on_of_nodup_map (map_pboxPosition_perm.nodup_iff.mpr List.nodup_range) (List.mem_range.mpr hi)
    (List.mem_range.mpr hk) h

theorem getLsbD_pbox {i j : Nat} (hi : i < 32) : (pbox i).getLsbD j = true ↔ pboxPosition i = j := by
  have := pboxPosition_lt hi
  rw [pbox_eq_twoPow hi, BitVec.getLsbD_twoPow]
  simp only [Bool.and_eq_true, decide_eq_true_eq]
  omega

/-! The loop of R92. -/

/-- The loop over any list of bits, from any result so far. -/
theorem getLsbD_foldl_or_pbox (x res : Word) (l : List Nat) (j : Nat) :
    (l.foldl (fun res i => if x.getLsbD i then res ||| pbox i else res) res).getLsbD j = true ↔
      res.getLsbD j = true ∨ ∃ i ∈ l, x.getLsbD i = true ∧ (pbox i).getLsbD j = true := by
  induction l generalizing res with
  | nil => simp
  | cons i l ih =>
    rw [List.foldl_cons, ih]
    cases hi : x.getLsbD i <;> simp [hi, or_assoc]

theorem getLsbD_permute32 (x : Word) (j : Nat) :
    (permute32 x).getLsbD j = true ↔ ∃ i, i < 32 ∧ x.getLsbD i = true ∧ (pbox i).getLsbD j = true := by
  rw [permute32, getLsbD_foldl_or_pbox]
  simp

/-- Input bit `i` is the only one whose mask holds its position. -/
theorem getLsbD_permute32_pboxPosition (x : Word) {i : Nat} (hi : i < 32) :
    (permute32 x).getLsbD (pboxPosition i) = x.getLsbD i := by
  rw [Bool.eq_iff_iff, getLsbD_permute32]
  constructor
  · rintro ⟨k, hk, hx, hmask⟩
    rwa [← pboxPosition_inj hk hi ((getLsbD_pbox hk).mp hmask)]
  · exact fun hx => ⟨i, hi, hx, (getLsbD_pbox hi).mpr rfl⟩

/-- Settles O15: one mask of the table holds each position, so the loop's OR puts one input bit there. -/
theorem permutationMovesEachBit : Obligations.PermutationMovesEachBit :=
  ⟨getLsbD_permute32, fun x _ hi => getLsbD_permute32_pboxPosition x hi, exec_perm32⟩

/-! The laws of R93. -/

/-- Two words are equal when they agree at every position of the column. -/
theorem eq_of_getLsbD_pboxPosition {x y : Word}
    (h : ∀ i < 32, x.getLsbD (pboxPosition i) = y.getLsbD (pboxPosition i)) : x = y := by
  refine BitVec.eq_of_getLsbD_eq fun j hj => ?_
  obtain ⟨i, hi, rfl⟩ := exists_pboxPosition_eq hj
  exact h i hi

theorem permute32_injective : Function.Injective permute32 := by
  intro x y h
  refine BitVec.eq_of_getLsbD_eq fun i hi => ?_
  rw [← getLsbD_permute32_pboxPosition x hi, h, getLsbD_permute32_pboxPosition y hi]

theorem permute32_bijective : Function.Bijective permute32 :=
  have : Finite Word := Finite.of_injective BitVec.toFin fun _ _ => BitVec.eq_of_toFin_eq
  Finite.injective_iff_bijective.mp permute32_injective

/-- The set bits are counted at the positions of the column, which are all the positions. -/
theorem countP_getLsbD_permute32 (x : Word) :
    (List.range 32).countP (fun j => (permute32 x).getLsbD j) = (List.range 32).countP (fun i => x.getLsbD i) := by
  rw [← map_pboxPosition_perm.countP_eq, List.countP_map]
  refine List.countP_congr fun i hi => ?_
  rw [Function.comp_apply, getLsbD_permute32_pboxPosition x (List.mem_range.mp hi)]

theorem permute32_xor (x y : Word) : permute32 (x ^^^ y) = permute32 x ^^^ permute32 y :=
  eq_of_getLsbD_pboxPosition fun i hi => by simp [getLsbD_permute32_pboxPosition _ hi]

theorem permute32_and (x y : Word) : permute32 (x &&& y) = permute32 x &&& permute32 y :=
  eq_of_getLsbD_pboxPosition fun i hi => by simp [getLsbD_permute32_pboxPosition _ hi]

theorem permute32_or (x y : Word) : permute32 (x ||| y) = permute32 x ||| permute32 y :=
  eq_of_getLsbD_pboxPosition fun i hi => by simp [getLsbD_permute32_pboxPosition _ hi]

theorem getLsbD_permute32_zero (x : Word) : (permute32 x).getLsbD 0 = x.getLsbD 0 :=
  getLsbD_permute32_pboxPosition x (i := 0) (by decide)

theorem getLsbD_permute32_thirtyOne (x : Word) : (permute32 x).getLsbD 31 = x.getLsbD 31 :=
  getLsbD_permute32_pboxPosition x (i := 31) (by decide)

/-- Settles O16: the laws follow from the bits' moves; the images of the constant words are computed. -/
theorem permutationLaws : Obligations.PermutationLaws :=
  ⟨permute32_bijective, by decide, by decide, countP_getLsbD_permute32,
    fun x y => ⟨permute32_xor x y, permute32_and x y, permute32_or x y⟩,
    fun x => ⟨getLsbD_permute32_zero x, getLsbD_permute32_thirtyOne x⟩,
    by decide, by decide, by decide, by decide, by decide⟩

end Sys2Proof.Machine
end

section
/-! The S-box (43_sbox). A byte's word in a column is injective and stays in the column's lane. For a modulus of SMOD the
256th power is the identity, so x^511 = x, and the seventh power is undone by the 73rd. -/

namespace Sys2Proof.Machine

/-! The entry's column and row (R96). -/

theorem toNat_sboxCol (i : BitVec 10) : (sboxCol i).toNat = i.toNat / 2 % 256 := by
  rw [sboxCol, BitVec.extractLsb'_toNat, Nat.shiftRight_eq_div_pow]

theorem toNat_sboxRow (i : BitVec 10) : (sboxRow i).toNat = 2 * (i.toNat / 512) + i.toNat % 2 := by
  have hlow : i.toNat % 2 < 2 := Nat.mod_lt _ two_pos
  rw [sboxRow, BitVec.toNat_append, BitVec.extractLsb'_toNat, BitVec.extractLsb'_toNat, Nat.shiftRight_zero, pow_one,
    ← Nat.shiftLeft_add_eq_or_of_lt (b := i.toNat % 2) (i := 1) hlow, Nat.shiftLeft_eq, Nat.shiftRight_eq_div_pow]
  omega

/-- Column and row are all the bits of the index. -/
theorem eq_of_sboxCol_eq_of_sboxRow_eq {i j : BitVec 10} (hcol : sboxCol i = sboxCol j) (hrow : sboxRow i = sboxRow j) :
    i = j := by
  have hc := congrArg BitVec.toNat hcol
  have hr := congrArg BitVec.toNat hrow
  rw [toNat_sboxCol, toNat_sboxCol] at hc
  rw [toNat_sboxRow, toNat_sboxRow] at hr
  bv_omega

/-- Settles O17: the numbers of R96 determine the fields, and the rest is SBOXRD's own effect. -/
theorem sboxrdWritesTheEntry : Obligations.SboxrdWritesTheEntry := by
  intro c i s col row hcol hrow
  obtain rfl : col = sboxCol i := BitVec.eq_of_toNat_eq (hcol.trans (toNat_sboxCol i).symm)
  obtain rfl : row = sboxRow i := BitVec.eq_of_toNat_eq (hrow.trans (toNat_sboxRow i).symm)
  exact exec_sboxrd c i s

/-! A byte in its column's lane (R97). -/

/-- The word of a byte in column `c`: R97's shift and permutation. -/
def laneWord (c : BitVec 2) (b : Byte) : Word := permute32 (b.setWidth 32 <<< (24 - 8 * c.toNat))

theorem sbox_eq_laneWord (i : BitVec 10) (c : BitVec 2) :
    sbox i c = laneWord c (gfExp7 (sboxCol i ^^^ sxor c (sboxRow i)) (smod c (sboxRow i))) := rfl

theorem laneWord_zero (c : BitVec 2) : laneWord c 0 = 0 :=
  (by decide : ∀ c, laneWord c 0 = 0) c

theorem laneWord_and (c : BitVec 2) (a b : Byte) : laneWord c (a &&& b) = laneWord c a &&& laneWord c b := by
  rw [laneWord, BitVec.setWidth_and, BitVec.shiftLeft_and_distrib, permute32_and, laneWord, laneWord]

/-- A lane is the word of the byte with every bit set. -/
theorem laneWord_and_lane (c : BitVec 2) (b : Byte) : laneWord c b &&& laneWord c 0xFF = laneWord c b := by
  rw [← laneWord_and, show (0xFF : Byte) = BitVec.allOnes 8 from rfl, BitVec.and_allOnes]

theorem lane_and_lane : ∀ c d : BitVec 2, c ≠ d → laneWord c 0xFF &&& laneWord d 0xFF = 0 := by decide

theorem laneWord_and_laneWord {c d : BitVec 2} (hne : c ≠ d) (a b : Byte) : laneWord c a &&& laneWord d b = 0 := by
  calc laneWord c a &&& laneWord d b
      = (laneWord c a &&& laneWord c 0xFF) &&& (laneWord d b &&& laneWord d 0xFF) := by
        rw [laneWord_and_lane, laneWord_and_lane]
    _ = (laneWord c a &&& laneWord d b) &&& (laneWord c 0xFF &&& laneWord d 0xFF) := by ac_rfl
    _ = 0 := by rw [lane_and_lane c d hne]; exact BitVec.and_zero

/-- The shift of a column loses no bit of the byte. -/
theorem laneWord_injective (c : BitVec 2) : Function.Injective (laneWord c) := by
  intro a b h
  have hshift := permute32_injective h
  refine BitVec.eq_of_getLsbD_eq fun k hk => ?_
  have hbit := congrArg (·.getLsbD (24 - 8 * c.toNat + k)) hshift
  have hlt : 24 - 8 * c.toNat + k < 32 := by omega
  simpa [hlt, hk] using hbit

/-! F's OR of four lookups (R110). -/

theorem or_eq_xor_of_and_eq_zero {w : Nat} {x y : BitVec w} (h : x &&& y = 0) : x ||| y = x ^^^ y := by
  refine BitVec.eq_of_getLsbD_eq fun k _ => ?_
  have hbit : (x.getLsbD k && y.getLsbD k) = false := by rw [← BitVec.getLsbD_and, h]; exact BitVec.getLsbD_zero
  rw [BitVec.getLsbD_or, BitVec.getLsbD_xor]
  exact (by decide : ∀ p q : Bool, (p && q) = false → (p || q) = (p ^^ q)) _ _ hbit

theorem or_and_eq_zero {w : Nat} {x y z : BitVec w} (hx : x &&& z = 0) (hy : y &&& z = 0) : (x ||| y) &&& z = 0 := by
  rw [BitVec.and_or_distrib_right, hx, hy]
  exact BitVec.or_self

theorem sbox_and_sbox {c d : BitVec 2} (hne : c ≠ d) (i j : BitVec 10) : sbox i c &&& sbox j d = 0 :=
  laneWord_and_laneWord hne _ _

theorem lookup4_eq_xor (al ar : Half20) :
    lookup4 al ar = sbox (al.extractLsb' 10 10) 0 ^^^ sbox (al.extractLsb' 0 10) 1 ^^^ sbox (ar.extractLsb' 10 10) 2
      ^^^ sbox (ar.extractLsb' 0 10) 3 := by
  have h01 := sbox_and_sbox (c := 0) (d := 1) (by decide)
  have h02 := sbox_and_sbox (c := 0) (d := 2) (by decide)
  have h03 := sbox_and_sbox (c := 0) (d := 3) (by decide)
  have h12 := sbox_and_sbox (c := 1) (d := 2) (by decide)
  have h13 := sbox_and_sbox (c := 1) (d := 3) (by decide)
  have h23 := sbox_and_sbox (c := 2) (d := 3) (by decide)
  rw [lookup4, or_eq_xor_of_and_eq_zero (or_and_eq_zero (or_and_eq_zero (h03 _ _) (h13 _ _)) (h23 _ _)),
    or_eq_xor_of_and_eq_zero (or_and_eq_zero (h02 _ _) (h12 _ _)), or_eq_xor_of_and_eq_zero (h01 _ _)]

/-! Repeated squaring. -/

/-- The square of R86's product. -/
def gfSquare (m : Modulus) (x : Byte) : Byte := gfMul x x m

section
variable {m : Modulus} (hm : m.getLsbD 8 = true)
include hm

theorem gfMul_xor_left (a x y : Byte) : gfMul (x ^^^ y) a m = gfMul x a m ^^^ gfMul y a m := xorLinear_gfMul hm a x y

theorem gfMul_xor_right (a x y : Byte) : gfMul a (x ^^^ y) m = gfMul a x m ^^^ gfMul a y m := by
  rw [gfMul_comm hm, gfMul_xor_left hm, gfMul_comm hm x, gfMul_comm hm y]

theorem gfMul_mul_mul_comm (a b c d : Byte) :
    gfMul (gfMul a b m) (gfMul c d m) m = gfMul (gfMul a c m) (gfMul b d m) m := by
  rw [gfMul_assoc hm, ← gfMul_assoc hm b, gfMul_comm hm b c, gfMul_assoc hm c, ← gfMul_assoc hm]

/-- The two cross products of a square cancel. -/
theorem xorLinear_gfSquare : XorLinear (gfSquare m) := by
  intro x y
  rw [gfSquare, gfMul_xor_right hm, gfMul_xor_left hm, gfMul_xor_left hm, gfMul_comm hm y x, BitVec.xor_assoc,
    ← BitVec.xor_assoc (gfMul x y m), BitVec.xor_self, BitVec.zero_xor, gfSquare, gfSquare]

theorem iterate_gfSquare_gfMul (n : Nat) (x y : Byte) :
    (gfSquare m)^[n] (gfMul x y m) = gfMul ((gfSquare m)^[n] x) ((gfSquare m)^[n] y) m := by
  induction n with
  | zero => rfl
  | succ n ih => simp only [Function.iterate_succ_apply', ih, gfSquare, gfMul_mul_mul_comm hm]

theorem iterate_gfSquare_one (n : Nat) : (gfSquare m)^[n] 1 = 1 :=
  Function.iterate_fixed (f := gfSquare m) (gfMul_one_left hm 1) n

/-- Doubling is the product with its own value at 1. -/
theorem gfDouble_eq_gfMul (x : Byte) : gfDouble m x = gfMul (gfDouble m 1) x m :=
  (xorLinear_gfDouble m).eq_gfMul hm (.refl _) x

/-- Squaring `n` times fixes every byte when it fixes the double of 1, of which every byte is a polynomial. -/
theorem iterate_gfSquare_eq_self {n : Nat} (hfix : (gfSquare m)^[n] (gfDouble m 1) = gfDouble m 1) (a : Byte) :
    (gfSquare m)^[n] a = a := by
  have hcomm : Function.Commute (gfSquare m)^[n] (gfDouble m) := fun x => by
    rw [gfDouble_eq_gfMul hm, iterate_gfSquare_gfMul hm, hfix, ← gfDouble_eq_gfMul hm]
  rw [((xorLinear_gfSquare hm).iterate n).eq_gfMul hm hcomm a, iterate_gfSquare_one hm, gfMul_one_left hm]

/-! Powers, as repeated multiplications. -/

theorem gfMul_iterate_gfSquare (a : Byte) (n : Nat) : (gfMul · ((gfSquare m)^[n] a) m) = (gfMul · a m)^[2 ^ n] := by
  induction n with
  | zero => rfl
  | succ n ih =>
    have hsquare (b : Byte) : (gfMul · (gfSquare m b) m) = (gfMul · b m)^[2] :=
      funext fun x => (gfMul_assoc hm x b b).symm
    rw [Function.iterate_succ_apply', hsquare, ih, pow_succ, Function.iterate_mul]

theorem gfMul_gfExp7 (a : Byte) : (gfMul · (gfExp7 a m) m) = (gfMul · a m)^[7] := by
  funext x
  simp only [gfExp7_eq_foldl hm, List.replicate_succ, List.replicate_zero, List.foldl_cons, List.foldl_nil,
    ← gfMul_assoc hm, Function.iterate_succ_apply, Function.iterate_zero_apply]

/-- The seventh power is injective where the 256th is the identity: 7 * 73 = 511, and x^511 = x^255 * x^256 = x. -/
theorem gfExp7_injective (hfix : (gfSquare m)^[8] (gfDouble m 1) = gfDouble m 1) :
    Function.Injective (gfExp7 · m) := by
  have hpow256 (a : Byte) : (gfMul · a m)^[2 ^ 8] = (gfMul · a m) := by
    rw [← gfMul_iterate_gfSquare hm a 8, iterate_gfSquare_eq_self hm hfix]
  have hinverse (a : Byte) : (gfMul · (gfExp7 a m) m)^[73] = (gfMul · a m) := by
    calc (gfMul · (gfExp7 a m) m)^[73]
        = (gfMul · a m)^[255 + 2 ^ 8] := by
          rw [gfMul_gfExp7 hm, ← Function.iterate_mul, show 7 * 73 = 255 + 2 ^ 8 from rfl]
      _ = (gfMul · a m)^[255] ∘ (gfMul · a m) := by rw [Function.iterate_add, hpow256]
      _ = (gfMul · a m)^[2 ^ 8] := (Function.iterate_succ _ 255).symm
      _ = (gfMul · a m) := hpow256 a
  intro a b h
  have hmaps : (gfMul · a m) = (gfMul · b m) := by
    rw [← hinverse a, ← hinverse b, show gfExp7 a m = gfExp7 b m from h]
  simpa only [gfMul_one_left hm] using congrFun hmaps 1

end

/-! The table's entries. -/

theorem validModulus_smod : ∀ c row : BitVec 2, (smod c row).getLsbD 8 = true := by decide

/-- Every modulus of SMOD makes the 256th power of the double of 1 the double of 1. -/
theorem iterate_gfSquare_smod : ∀ c row : BitVec 2,
    (gfSquare (smod c row))^[8] (gfDouble (smod c row) 1) = gfDouble (smod c row) 1 := by decide

theorem gfExp7_zero (m : Modulus) : gfExp7 0 m = 0 := rfl

theorem gfExp7_smod_injective (c row : BitVec 2) : Function.Injective (gfExp7 · (smod c row)) :=
  gfExp7_injective (validModulus_smod c row) (iterate_gfSquare_smod c row)

theorem sbox_eq_sbox_iff {i j : BitVec 10} {c : BitVec 2} (hrow : sboxRow i = sboxRow j) :
    sbox i c = sbox j c ↔ i = j := by
  refine ⟨fun h => ?_, fun h => h ▸ rfl⟩
  rw [sbox_eq_laneWord, sbox_eq_laneWord, hrow] at h
  have hcol := gfExp7_smod_injective c (sboxRow j) (laneWord_injective c h)
  exact eq_of_sboxCol_eq_of_sboxRow_eq ((BitVec.xor_left_inj _).mp hcol) hrow

theorem sbox_eq_zero_iff (i : BitVec 10) (c : BitVec 2) : sbox i c = 0 ↔ sboxCol i = sxor c (sboxRow i) := by
  rw [sbox_eq_laneWord, ← laneWord_zero c, (laneWord_injective c).eq_iff, ← gfExp7_zero (smod c (sboxRow i)),
    (gfExp7_smod_injective c (sboxRow i)).eq_iff]
  exact BitVec.xor_eq_zero_iff

theorem sbox_and_not_lane (i : BitVec 10) (c : BitVec 2) : sbox i c &&& ~~~ laneWord c 0xFF = 0 := by
  rw [sbox_eq_laneWord, ← laneWord_and_lane, BitVec.and_assoc, BitVec.and_not_self]
  exact BitVec.and_zero

/-- Settles O18: the lanes are computed; the entries' properties follow from the injectivity of R97's three steps. -/
theorem sboxColumnsAreDisjointLanes : Obligations.SboxColumnsAreDisjointLanes :=
  ⟨by decide, by decide, by decide, by decide, sbox_and_not_lane, lane_and_lane, by decide, lookup4_eq_xor,
    fun _ _ _ hrow => (sbox_eq_sbox_iff hrow).mp, sbox_eq_zero_iff⟩

end Sys2Proof.Machine
end

section
/-! The key schedule builder, bit by bit: what an extraction, a turn of a round and a round give (R102 to R104). -/

namespace Sys2Proof.Machine

/-! The registers. -/

theorem getLsbD_rotateInverted (r : BitVec 16) {i : Nat} (hi : i < 16) :
    (rotateInverted r).getLsbD i = if i = 15 then !r.getLsbD 0 else r.getLsbD (i + 1) := by
  obtain rfl | h15 := eq_or_ne i 15
  · simp [rotateInverted, BitVec.getLsbD_of_ge]
  · have hlt : i < 15 := by omega
    simp [rotateInverted, h15, hlt, hi, Nat.add_comm]

theorem extractedBit_add_sixteen (r : BitVec 16) (x : Nat) : extractedBit r (x + 16) = !extractedBit r x := by
  have hparity : decide ((x + 16) / 16 % 2 = 1) = !decide (x / 16 % 2 = 1) := by
    rw [← decide_not, decide_eq_decide]
    omega
  rw [extractedBit, extractedBit, hparity, Nat.add_mod_right, Bool.xor_not]

/-- After `x` extractions a register holds the bits of the next sixteen (R103). -/
theorem getLsbD_iterate_rotateInverted (r : BitVec 16) (x : Nat) {i : Nat} (hi : i < 16) :
    (rotateInverted^[x] r).getLsbD i = extractedBit r (x + i) := by
  induction x generalizing i with
  | zero => simp [extractedBit, Nat.mod_eq_of_lt hi, Nat.div_eq_of_lt hi]
  | succ x ih =>
    rw [Function.iterate_succ_apply', getLsbD_rotateInverted _ hi]
    split
    · subst i
      rw [ih (by decide), Nat.add_zero, ← extractedBit_add_sixteen]
    · rw [ih (by omega), Nat.add_right_comm, Nat.add_assoc]

/-- The registers after one extraction from each of the four. -/
def KeyRegs.rotateAll (kb : KeyRegs) : KeyRegs :=
  ⟨rotateInverted kb.r0, rotateInverted kb.r1, rotateInverted kb.r2, rotateInverted kb.r3⟩

theorem get_rotateAll (w : Nat) : Function.Semiconj (KeyRegs.get · w) KeyRegs.rotateAll rotateInverted := by
  intro kb
  match w with
  | 0 | 1 | 2 | _ + 3 => rfl

theorem get_iterate_rotateAll (kb : KeyRegs) (w x : Nat) :
    (KeyRegs.rotateAll^[x] kb).get w = rotateInverted^[x] (kb.get w) :=
  (get_rotateAll w).iterate_right x kb

theorem get_pack (s : State) (base : Nat) {w : Nat} (hw : w < 4) :
    (pack s.keyByte base).get w = s.keyReg base w := by
  interval_cases w <;> rfl

/-! The subkeys. -/

theorem getLsbD_shiftIn (w : Half20) (bit : Bool) {i : Nat} (hi : i < 20) :
    (shiftIn w bit).getLsbD i = if i = 0 then bit else w.getLsbD (i - 1) := by
  obtain rfl | h0 := Nat.eq_zero_or_pos i
  · simp [shiftIn]
  · simp only [shiftIn, BitVec.getLsbD_or, BitVec.getLsbD_shiftLeft, BitVec.getLsbD_setWidth, BitVec.getLsbD_ofBool]
    simp [hi, h0.ne']

/-- The bits shifted in stand in reverse order at the low end. -/
theorem getLsbD_foldl_shiftIn (w : Half20) (bit : Nat → Bool) (n : Nat) {i : Nat} (hi : i < 20) :
    ((List.range n).foldl (fun w k => shiftIn w (bit k)) w).getLsbD i =
      if i < n then bit (n - 1 - i) else w.getLsbD (i - n) := by
  induction n generalizing i with
  | zero => rfl
  | succ n ih =>
    rw [List.range_succ, List.foldl_append, List.foldl_cons, List.foldl_nil, getLsbD_shiftIn _ _ hi]
    obtain rfl | hpos := Nat.eq_zero_or_pos i
    · simp
    · obtain ⟨i, rfl⟩ := Nat.exists_eq_add_of_lt hpos
      simp [ih (i := i) (by omega), Nat.sub_sub, Nat.add_comm]

theorem word_shiftIn_self (sk : Subkey) {m : Nat} (hm : m < 3) (bit : Bool) :
    (sk.shiftIn m bit).word m = shiftIn (sk.word m) bit := by
  interval_cases m <;> rfl

theorem word_shiftIn_of_ne (sk : Subkey) {m n : Nat} (hm : m < 3) (hn : n < 3) (hne : m ≠ n) (bit : Bool) :
    (sk.shiftIn n bit).word m = sk.word m := by
  interval_cases n <;> interval_cases m <;> simp [Subkey.shiftIn, Subkey.word] at hne ⊢

/-- The subkey after turn `j`, the four bits given (R104). -/
def Subkey.turn (sk : Subkey) (j : Nat) (bit : Nat → Bool) : Subkey :=
  (List.range 4).foldl (fun sk k => sk.shiftIn (j % 3) (bit k)) sk

theorem word_turn_self (sk : Subkey) (j : Nat) (bit : Nat → Bool) :
    (sk.turn j bit).word (j % 3) = (List.range 4).foldl (fun w k => shiftIn w (bit k)) (sk.word (j % 3)) :=
  (List.foldl_hom (Subkey.word · (j % 3)) fun sk k => (word_shiftIn_self sk (Nat.mod_lt j (by decide)) (bit k)).symm).symm

theorem word_turn_of_ne (sk : Subkey) {m j : Nat} (hm : m < 3) (hne : m ≠ j % 3) (bit : Nat → Bool) :
    (sk.turn j bit).word m = sk.word m := by
  have hj : j % 3 < 3 := Nat.mod_lt j (by decide)
  simp [Subkey.turn, List.range_succ, word_shiftIn_of_ne _ hm hj hne]

/-- One turn takes a bit from each register, from `kr` on, into word `j % 3` (R104). -/
theorem foldl_takeBit (kr j : Nat) (st : Subkey × KeyRegs) :
    (List.range 4).foldl (takeBit kr j) st =
      (st.1.turn j fun k => (st.2.get ((kr + k) % 4)).getLsbD 0, st.2.rotateAll) := by
  have hkr : kr % 4 < 4 := Nat.mod_lt kr (by decide)
  simp only [Subkey.turn, takeBit, extract, List.range_succ, List.range_zero, List.nil_append, List.cons_append,
    List.foldl_cons, List.foldl_nil, Nat.add_mod kr]
  interval_cases kr % 4 <;> rfl

/-- `buildSubkey` stopped after `n` turns. -/
def subkeyTurns (kr n : Nat) (kb : KeyRegs) : Subkey × KeyRegs :=
  (List.range n).foldl (fun st j => (List.range 4).foldl (takeBit kr j) st) (Subkey.zero, kb)

theorem subkeyTurns_succ (kr n : Nat) (kb : KeyRegs) :
    subkeyTurns kr (n + 1) kb =
      ((subkeyTurns kr n kb).1.turn n fun k => ((subkeyTurns kr n kb).2.get ((kr + k) % 4)).getLsbD 0,
        (subkeyTurns kr n kb).2.rotateAll) := by
  rw [subkeyTurns, List.range_succ (n := n), List.foldl_append, List.foldl_cons, List.foldl_nil, foldl_takeBit]
  rfl

theorem subkeyTurns_snd (kr n : Nat) (kb : KeyRegs) : (subkeyTurns kr n kb).2 = KeyRegs.rotateAll^[n] kb := by
  induction n with
  | zero => rfl
  | succ n ih => rw [subkeyTurns_succ, ih, Function.iterate_succ_apply']

/-- Turn `j`'s bits stand in word `j % 3`, four places up for each later turn of that word (R104). -/
theorem getLsbD_subkeyTurns (kr : Nat) (kb : KeyRegs) {n j k : Nat} (hn : n ≤ 15) (hj : j < n) (hk : k < 4) :
    ((subkeyTurns kr n kb).1.word (j % 3)).getLsbD (4 * ((n - 1 - j) / 3) + (3 - k)) =
      (rotateInverted^[j] (kb.get ((kr + k) % 4))).getLsbD 0 := by
  induction n with
  | zero => exact absurd hj (Nat.not_lt_zero j)
  | succ n ih =>
    rw [subkeyTurns_succ]
    obtain rfl | hlt := Nat.eq_or_lt_of_le (Nat.le_of_lt_succ hj)
    · rw [word_turn_self, getLsbD_foldl_shiftIn _ _ _ (by omega), if_pos (by omega), subkeyTurns_snd,
        get_iterate_rotateAll, show 4 - 1 - (4 * ((j + 1 - 1 - j) / 3) + (3 - k)) = k by omega]
    · rw [← ih (by omega) hlt]
      by_cases hm : j % 3 = n % 3
      · rw [hm, word_turn_self, getLsbD_foldl_shiftIn _ _ _ (by omega), if_neg (by omega)]
        congr 1
        omega
      · rw [word_turn_of_ne _ (Nat.mod_lt j (by decide)) hm]
        congr 1
        omega

theorem buildSubkey_snd (kr : Nat) (kb : KeyRegs) : (buildSubkey kr kb).2 = KeyRegs.rotateAll^[15] kb :=
  subkeyTurns_snd kr 15 kb

/-- The subkey of round `i` of a pass with rotation offset `l` from the registers `kb` (R104). -/
def passSubkey (kb : KeyRegs) (l i : Nat) : Subkey := (buildSubkey (keyrot (i + l)) (KeyRegs.rotateAll^[15 * i] kb)).1

/-- A pass's subkeys are the bits the key block's registers give, `start` extractions on (R103, R104). -/
theorem isSubkey_passSubkey (s : State) (base l start i : Nat) :
    s.IsSubkey base l start i (passSubkey (KeyRegs.rotateAll^[start] (pack s.keyByte base)) l i) := by
  intro m q k hm hq hk
  have hbits := getLsbD_subkeyTurns (keyrot (i + l)) (KeyRegs.rotateAll^[15 * i + start] (pack s.keyByte base))
    (n := 15) (j := 3 * q + m) le_rfl (by omega) hk
  rw [get_iterate_rotateAll, get_pack s base (Nat.mod_lt _ (by decide)), ← Function.iterate_add_apply,
    getLsbD_iterate_rotateInverted _ _ (by decide), show (3 * q + m) % 3 = m by omega,
    show 4 * ((15 - 1 - (3 * q + m)) / 3) + (3 - k) = 19 - (4 * q + k) by omega,
    show 3 * q + m + (15 * i + start) + 0 = start + 15 * i + 3 * q + m by omega] at hbits
  rw [passSubkey, ← Function.iterate_add_apply]
  exact hbits

end Sys2Proof.Machine
end

section
/-! The slots that a pass, a key block and a key set write (R104 to R107). -/

namespace Sys2Proof.Machine

/-- The schedule with the slots from `n` on written in turn. -/
def Schedule.writeSlots (ks : Schedule) (n : Nat) (f : Nat → Subkey) : Nat → Schedule
  | 0 => ks
  | c + 1 => (ks.writeSlots n f c).write (n + c) (f c)

theorem Schedule.writeSlots_wf {m n c : Nat} {ks : Schedule} (f : Nat → Subkey) (hc : n + c ≤ m) (h : ks.wf m = true) :
    (ks.writeSlots n f c).wf m = true := by
  induction c with
  | zero => exact h
  | succ c ih => exact Schedule.write_wf (by omega) (ih (by omega))

theorem Schedule.writeSlots_read_other {n c j : Nat} (f : Nat → Subkey) (ks : Schedule) (hj : j < n ∨ n + c ≤ j) :
    (ks.writeSlots n f c).read j = ks.read j := by
  induction c with
  | zero => rfl
  | succ c ih => exact (Schedule.read_write_other _ _ (by omega)).trans (ih (by omega))

theorem Schedule.writeSlots_read {m n c i : Nat} {ks : Schedule} (f : Nat → Subkey) (hc : n + c ≤ m) (h : ks.wf m = true)
    (hi : i < c) : (ks.writeSlots n f c).read (n + i) = f i := by
  induction c with
  | zero => exact absurd hi (Nat.not_lt_zero i)
  | succ c ih =>
    obtain rfl | hlt := Nat.eq_or_lt_of_le (Nat.le_of_lt_succ hi)
    · exact Schedule.read_write_same _ _ (Schedule.writeSlots_wf f (by omega) h)
    · exact (Schedule.read_write_other _ _ (by omega)).trans (ih (by omega) hlt)

/-- A pass writes eight slots from `n` on, and leaves the registers 120 extractions on (R104). -/
theorem schedulePass_eq (kb : KeyRegs) (n l : Nat) (ks : Schedule) :
    schedulePass kb n l ks = (KeyRegs.rotateAll^[120] kb, ks.writeSlots n (passSubkey kb l) 8) := by
  suffices ∀ c, (List.range c).foldl
      (fun st i =>
        ((buildSubkey (keyrot (i + l)) st.1).2, Schedule.write st.2 (n + i) (buildSubkey (keyrot (i + l)) st.1).1))
      (kb, ks) = (KeyRegs.rotateAll^[15 * c] kb, ks.writeSlots n (passSubkey kb l) c) from this 8
  intro c
  induction c with
  | zero => rfl
  | succ c ih =>
    rw [List.range_succ, List.foldl_append, ih, List.foldl_cons, List.foldl_nil, buildSubkey_snd,
      ← Function.iterate_add_apply, Nat.mul_succ, Nat.add_comm (15 * c)]
    rfl

theorem setKeyThin_eq (key : Nat → Byte) (ks : Schedule) :
    setKeyThin key ks = ks.writeSlots 0 (passSubkey (pack key 0) 0) 8 := by
  rw [setKeyThin, schedulePass_eq]

/-- The thin key set's slots are one pass's subkeys (R105). -/
theorem setKeyThin_read (key : Nat → Byte) {m i : Nat} {ks : Schedule} (hm : 8 ≤ m) (h : ks.wf m = true) (hi : i < 8) :
    (setKeyThin key ks).read i = passSubkey (pack key 0) 0 i := by
  have hread := Schedule.writeSlots_read (n := 0) (passSubkey (pack key 0) 0) (by omega) h hi
  rwa [← setKeyThin_eq, Nat.zero_add] at hread

theorem setKeyBlock_eq (key : Nat → Byte) (rounds b : Nat) (ks : Schedule) :
    setKeyBlock key rounds b ks =
      (ks.writeSlots (8 * b) (passSubkey (pack key (8 * b)) 0) 8).writeSlots (rounds - 8 - 8 * b)
        (passSubkey (KeyRegs.rotateAll^[120] (pack key (8 * b))) 8) 8 := by
  simp only [setKeyBlock, schedulePass_eq]

theorem setKeyLevel_succ (key : Nat → Byte) (c rounds : Nat) (ks : Schedule) :
    setKeyLevel key (c + 1) rounds ks = setKeyBlock key rounds c (setKeyLevel key c rounds ks) := by
  rw [setKeyLevel, List.range_succ, List.foldl_append]
  rfl

/-- A key block leaves the slots of both passes of the blocks before it (R107). -/
theorem setKeyBlock_read_other (key : Nat → Byte) {size b c i : Nat} (ks : Schedule) (hc : c + 1 ≤ size) (hb : b < c)
    (hi : i < 8) :
    (setKeyBlock key (16 * size) c ks).read (8 * b + i) = ks.read (8 * b + i) ∧
      (setKeyBlock key (16 * size) c ks).read (16 * size - 8 - 8 * b + i) = ks.read (16 * size - 8 - 8 * b + i) := by
  rw [setKeyBlock_eq]
  constructor <;>
    rw [Schedule.writeSlots_read_other _ _ (by omega), Schedule.writeSlots_read_other _ _ (by omega)]

/-- A key block's slots are the two passes' subkeys (R106). -/
theorem setKeyBlock_read (key : Nat → Byte) {size b i : Nat} {ks : Schedule} (h : ks.wf (16 * size) = true)
    (hb : b < size) (hi : i < 8) :
    (setKeyBlock key (16 * size) b ks).read (8 * b + i) = passSubkey (pack key (8 * b)) 0 i ∧
      (setKeyBlock key (16 * size) b ks).read (16 * size - 8 - 8 * b + i) =
        passSubkey (KeyRegs.rotateAll^[120] (pack key (8 * b))) 8 i := by
  rw [setKeyBlock_eq]
  constructor
  · rw [Schedule.writeSlots_read_other _ _ (by omega), Schedule.writeSlots_read _ (by omega) h hi]
  · exact Schedule.writeSlots_read _ (by omega) (Schedule.writeSlots_wf _ (by omega) h) hi

/-- After `c` of `size` key blocks, every block below `c` has its slots (R106). -/
theorem setKeyLevel_read (key : Nat → Byte) {size c : Nat} {ks : Schedule} (h : ks.wf (16 * size) = true)
    (hc : c ≤ size) :
    (setKeyLevel key c (16 * size) ks).wf (16 * size) = true ∧
      ∀ b i, b < c → i < 8 →
        (setKeyLevel key c (16 * size) ks).read (8 * b + i) = passSubkey (pack key (8 * b)) 0 i ∧
          (setKeyLevel key c (16 * size) ks).read (16 * size - 8 - 8 * b + i) =
            passSubkey (KeyRegs.rotateAll^[120] (pack key (8 * b))) 8 i := by
  induction c with
  | zero => exact ⟨h, fun b _ hb _ => absurd hb (Nat.not_lt_zero b)⟩
  | succ c ih =>
    obtain ⟨hwf, hread⟩ := ih (by omega)
    rw [setKeyLevel_succ]
    refine ⟨setKeyBlock_wf key (by omega) (by omega) hwf, fun b i hb hi => ?_⟩
    obtain rfl | hlt := Nat.eq_or_lt_of_le (Nat.le_of_lt_succ hb)
    · exact setKeyBlock_read key hwf (by omega) hi
    · obtain ⟨hfirst, hmirror⟩ := setKeyBlock_read_other key (setKeyLevel key c (16 * size) ks) hc hlt hi
      rw [hfirst, hmirror]
      exact hread b i hlt hi

end Sys2Proof.Machine
end

section
/-! The length checks, and SETKEY in each mode (R105, R106, R108). -/

namespace Sys2Proof.Machine

/-- The length check compares numbers (R68, R108). -/
theorem setWidth_eq_keylen_iff {len : BitVec 16} {s : State} :
    len.setWidth 32 = s.keylen ↔ len.toNat = s.keylen.toNat := by
  rw [← BitVec.toNat_inj, BitVec.toNat_setWidth_of_le (by decide)]

/-- Settles O23: the length checks fail. -/
theorem wrongLengthsAreRefused : Obligations.WrongLengthsAreRefused := by
  intro len s
  refine ⟨fun hlen => ?_, fun hlen => ?_⟩
  · rw [exec_setkey, if_pos (mt setWidth_eq_keylen_iff.mp hlen)]
    rfl
  · have hne : isBlockLength len = false := by
      rw [isBlockLength, beq_eq_false_iff_ne]
      rintro rfl
      exact hlen rfl
    rw [exec_encrypt, exec_decrypt, hne]
    exact ⟨rfl, rfl⟩

/-- SETKEY with the length KEYLEN asks for (R108). -/
theorem exec_setkey_keylen {len : BitVec 16} {s : State} (h : len.toNat = s.keylen.toNat) :
    exec (.setkey len) s =
      .next ({ s with ks := Schedule.replaceBelow s.rounds.toNat s.buildSchedule s.ks, keyed := true }.complete .ok) := by
  rw [exec_setkey, if_neg (not_not.mpr (setWidth_eq_keylen_iff.mpr h))]

/-- Settles O24: the slots are those of one pass at offset 0. -/
theorem setkeyThinBuildsEightSlots : Obligations.SetkeyThinBuildsEightSlots := by
  intro s h h8
  have hthin := h.rounds_eq_eight_iff.mp h8
  have hrounds := hthin.rounds_toNat
  obtain ⟨-, -, hkeylen⟩ := hthin
  refine ⟨_, exec_setkey_keylen (by rw [hkeylen]; rfl), rfl, fun i hi => ?_, fun i hi => ?_⟩
  · rw [complete_ks, Schedule.replaceBelow_read, if_pos (by omega), State.buildSchedule, if_pos h8,
      setKeyThin_read _ hrounds.ge h.ks_wf hi]
    exact isSubkey_passSubkey s 0 0 0 i
  · rw [complete_ks, Schedule.replaceBelow_read, if_neg (by omega)]

/-- Settles O25: each key block's slots are those of its pass at offset 0 and of its pass at offset 8 after it. -/
theorem setkeyLevelBuildsMirroredSlots : Obligations.SetkeyLevelBuildsMirroredSlots := by
  intro s len h hlevel hlen
  have hbuild : s.buildSchedule = setKeyLevel s.keyByte s.size.toNat s.rounds.toNat s.ks := if_neg hlevel.rounds_ne_eight
  obtain ⟨-, -, hrounds, -⟩ := hlevel
  have hks := h.ks_wf
  rw [hrounds] at hks hbuild
  obtain ⟨-, hread⟩ := setKeyLevel_read s.keyByte hks le_rfl
  refine ⟨_, exec_setkey_keylen hlen, rfl, fun b i hb hi => ?_, fun i hi => ?_⟩
  · obtain ⟨hfirst, hmirror⟩ := hread b i hb hi
    rw [complete_ks, Schedule.replaceBelow_read, Schedule.replaceBelow_read, hrounds, if_pos (by omega), if_pos (by omega),
      hbuild, hfirst, hmirror]
    exact ⟨isSubkey_passSubkey s (8 * b) 0 0 i, isSubkey_passSubkey s (8 * b) 8 120 i⟩
  · rw [complete_ks, Schedule.replaceBelow_read, if_neg (by omega)]

end Sys2Proof.Machine
end

section
/-! The round function F and FTEST (45_round_function). F chooses between the bits of the two expansion words, and both the
expansion and the choice commute with complement. -/

namespace Sys2Proof.Machine

/-! The expansion's bits are bits of the half-block (R109), so it is linear. -/

theorem getLsbD_expandLeft (p : Word) {i : Nat} (hi : i < 20) :
    (expandLeft p).getLsbD i = p.getLsbD (if i < 10 then i + 16 else (i + 14) % 32) := by
  interval_cases i <;> simp [expandLeft, widen]

theorem getLsbD_expandRight (p : Word) {i : Nat} (hi : i < 20) :
    (expandRight p).getLsbD i = p.getLsbD (if i < 10 then i else i - 2) := by
  interval_cases i <;> simp [expandRight, widen]

theorem expandLeft_xor (p q : Word) : expandLeft (p ^^^ q) = expandLeft p ^^^ expandLeft q :=
  BitVec.eq_of_getLsbD_eq fun i hi => by simp only [BitVec.getLsbD_xor, getLsbD_expandLeft _ hi]

theorem expandRight_xor (p q : Word) : expandRight (p ^^^ q) = expandRight p ^^^ expandRight q :=
  BitVec.eq_of_getLsbD_eq fun i hi => by simp only [BitVec.getLsbD_xor, getLsbD_expandRight _ hi]

theorem expandLeft_complement (p : Word) : expandLeft (p ^^^ 0xFFFFFFFF) = expandLeft p ^^^ 0xFFFFF := expandLeft_xor p _

theorem expandRight_complement (p : Word) : expandRight (p ^^^ 0xFFFFFFFF) = expandRight p ^^^ 0xFFFFF :=
  expandRight_xor p _

/-! The keyed swap (R111). -/

/-- The bits of `y` where `m` is 1 and those of `x` where it is 0. -/
def selectBits {w : Nat} (m x y : BitVec w) : BitVec w := x &&& ~~~ m ||| y &&& m

section
variable {w : Nat} (m x y c : BitVec w)

theorem xor_xor_xor_cancel_right : x ^^^ c ^^^ (y ^^^ c) = x ^^^ y := by
  calc x ^^^ c ^^^ (y ^^^ c) = x ^^^ y ^^^ (c ^^^ c) := by ac_rfl
    _ = x ^^^ y := by rw [BitVec.xor_self, BitVec.xor_zero]

theorem getLsbD_selectBits {b : Nat} (hb : b < w) :
    (selectBits m x y).getLsbD b = if m.getLsbD b then y.getLsbD b else x.getLsbD b := by
  rw [selectBits, BitVec.getLsbD_or, BitVec.getLsbD_and, BitVec.getLsbD_and, BitVec.getLsbD_not, decide_eq_true hb]
  cases m.getLsbD b <;> simp

/-- R110's way to select: the selected bits of the difference take `x` to `y`. -/
theorem selectBits_eq_xor : selectBits m x y = m &&& (x ^^^ y) ^^^ x := by
  refine BitVec.eq_of_getLsbD_eq fun b hb => ?_
  rw [getLsbD_selectBits m x y hb, BitVec.getLsbD_xor, BitVec.getLsbD_and, BitVec.getLsbD_xor]
  exact (by decide : ∀ m x y : Bool, (if m then y else x) = ((m && (x ^^ y)) ^^ x)) _ _ _

theorem selectBits_zero : selectBits 0 x y = x := by simp [selectBits]

theorem selectBits_allOnes : selectBits (BitVec.allOnes w) x y = y := by simp [selectBits]

theorem selectBits_xor_xor : selectBits m (x ^^^ c) (y ^^^ c) = selectBits m x y ^^^ c := by
  rw [selectBits_eq_xor, selectBits_eq_xor, xor_xor_xor_cancel_right, BitVec.xor_assoc]

end

/-- The first steps of R110 are R111's two selections. -/
theorem roundF_eq_lookup4_selectBits (p : Word) (sk : Subkey) :
    roundF p sk = lookup4 (selectBits sk.w2 (expandLeft p) (expandRight p) ^^^ sk.w0)
      (selectBits sk.w2 (expandRight p) (expandLeft p) ^^^ sk.w1) := by
  rw [selectBits_eq_xor, selectBits_eq_xor, BitVec.xor_comm (expandRight p) (expandLeft p)]
  rfl

/-- Settles O20: the two selections, for a selector of zeros, of ones, and bit by bit. -/
theorem roundFunctionIsAKeyedSwap : Obligations.RoundFunctionIsAKeyedSwap := by
  intro p sk
  refine ⟨roundF_eq_lookup4_selectBits p sk, fun hzero => ?_, fun hones => ?_, fun b hb => ?_⟩
  · rw [roundF_eq_lookup4_selectBits, hzero, selectBits_zero, selectBits_zero]
  · have hall : sk.w2 = BitVec.allOnes 20 := hones
    rw [roundF_eq_lookup4_selectBits, hall, selectBits_allOnes, selectBits_allOnes]
  · have hleft := getLsbD_selectBits sk.w2 (expandLeft p) (expandRight p) hb
    have hright := getLsbD_selectBits sk.w2 (expandRight p) (expandLeft p) hb
    exact ⟨fun h => ⟨hleft.trans (if_pos h), hright.trans (if_pos h)⟩,
      fun h => ⟨hleft.trans (by rw [h]; rfl), hright.trans (by rw [h]; rfl)⟩⟩

/-! The complement property (R112). -/

theorem roundF_complement (p : Word) (sk : Subkey) :
    roundF (p ^^^ 0xFFFFFFFF) ⟨sk.w0 ^^^ 0xFFFFF, sk.w1 ^^^ 0xFFFFF, sk.w2⟩ = roundF p sk := by
  simp only [roundF_eq_lookup4_selectBits, expandLeft_complement, expandRight_complement, selectBits_xor_xor,
    xor_xor_xor_cancel_right]

/-- Settles O21: the complement passes through the expansion and the selection, and that of the key words undoes it; the two
values are computed. -/
theorem roundFunctionCommutesWithComplement : Obligations.RoundFunctionCommutesWithComplement :=
  ⟨fun p sk => (roundF_complement p sk).symm, by decide, by decide⟩

/-! FTEST (R113). -/

/-- Settles O22: FTEST's effect reads neither the key buffer nor the schedule nor KEYED. -/
theorem ftestWritesRoundFunction : Obligations.FtestWritesRoundFunction :=
  fun s buf ks keyed => exec_ftest { s with keybuf := buf, ks := ks, keyed := keyed }

end Sys2Proof.Machine
end

section
/-! The block cipher (46_block_cipher). Both loops run the same turns of two half-rounds and differ in the subkeys only: ENCRYPT
takes the slots upward, DECRYPT downward. A turn with its two subkeys exchanged undoes it on swapped halves. -/

namespace Sys2Proof.Machine

/-! Turns of two half-rounds. -/

/-- One turn of R114's and R115's loops: the half-round with `a` on the left half, then the one with `b` on the right. -/
def feistelTurn (a b : Subkey) (h : Word × Word) : Word × Word :=
  (h.1 ^^^ roundF h.2 a, h.2 ^^^ roundF (h.1 ^^^ roundF h.2 a) b)

/-- `n` turns, the half-round numbered `j` with the subkey `sk j`. -/
def feistel (sk : Nat → Subkey) : Nat → Word × Word → Word × Word
  | 0, h => h
  | n + 1, h => feistelTurn (sk (2 * n)) (sk (2 * n + 1)) (feistel sk n h)

theorem feistel_succ (sk : Nat → Subkey) (n : Nat) (h : Word × Word) :
    feistel sk (n + 1) h = feistelTurn (sk (2 * n)) (sk (2 * n + 1)) (feistel sk n h) := rfl

/-- The first of the turns taken off, where `feistel_succ` takes off the last. -/
theorem feistel_succ_first (sk : Nat → Subkey) (n : Nat) (h : Word × Word) :
    feistel sk (n + 1) h = feistel (fun j => sk (j + 2)) n (feistelTurn (sk 0) (sk 1) h) := by
  induction n with
  | zero => rfl
  | succ n ih => rw [feistel_succ, ih, feistel_succ]; rfl

theorem feistel_congr {sk sk' : Nat → Subkey} {n : Nat} (hsk : ∀ j < 2 * n, sk j = sk' j) (h : Word × Word) :
    feistel sk n h = feistel sk' n h := by
  induction n with
  | zero => rfl
  | succ n ih =>
    rw [feistel_succ, feistel_succ, ih fun j hj => hsk j (by omega), hsk (2 * n) (by omega), hsk (2 * n + 1) (by omega)]

/-- Halves that follow the recurrence of R114 and R115 are those of the turns. -/
theorem feistel_of_recurrence {sk : Nat → Subkey} {l r : Nat → Word} {n : Nat}
    (hrec : ∀ k < n, l (k + 1) = l k ^^^ roundF (r k) (sk (2 * k)) ∧
      r (k + 1) = r k ^^^ roundF (l (k + 1)) (sk (2 * k + 1))) :
    feistel sk n (l 0, r 0) = (l n, r n) := by
  induction n with
  | zero => rfl
  | succ n ih =>
    obtain ⟨hl, hr⟩ := hrec n (Nat.lt_succ_self n)
    rw [feistel_succ, ih fun k hk => hrec k (Nat.lt_succ_of_lt hk), hr, hl]
    rfl

/-! The turns undone (R116). -/

theorem feistelTurn_swap_feistelTurn (a b : Subkey) (h : Word × Word) :
    feistelTurn b a (feistelTurn a b h).swap = h.swap := by
  simp [feistelTurn, Prod.swap]

/-- Turns with the subkeys in the reverse order undo the turns, on swapped halves. -/
theorem feistel_swap_feistel {sk sk' : Nat → Subkey} {n : Nat} (hsk : ∀ j < 2 * n, sk' j = sk (2 * n - 1 - j))
    (h : Word × Word) : feistel sk' n (feistel sk n h).swap = h.swap := by
  induction n generalizing sk' with
  | zero => rfl
  | succ n ih =>
    have hfirst : sk' 0 = sk (2 * n + 1) := hsk 0 (by omega)
    have hsecond : sk' 1 = sk (2 * n) := hsk 1 (by omega)
    rw [feistel_succ_first, feistel_succ, hfirst, hsecond, feistelTurn_swap_feistelTurn]
    refine ih fun j hj => ?_
    rw [hsk (j + 2) (by omega)]
    congr 1
    omega

/-! The model's loops are turns. -/

theorem encryptLoop_eq_feistel (ks : Schedule) (n i : Nat) (l r : Word) :
    encryptLoop ks n i l r = feistel (fun j => ks.read (i + j)) n (l, r) := by
  induction n generalizing i l r with
  | zero => rfl
  | succ n ih =>
    rw [encryptLoop, ih, feistel_succ_first]
    simp only [Nat.add_assoc, Nat.add_comm 2]
    rfl

theorem decryptLoop_eq_feistel (ks : Schedule) (n i : Nat) (l r : Word) :
    decryptLoop ks n i l r = feistel (fun j => ks.read (i - 1 - j)) n (l, r) := by
  induction n generalizing i l r with
  | zero => rfl
  | succ n ih =>
    have hslot : ∀ j, i - 2 - 1 - j = i - 1 - (j + 2) := fun j => by omega
    rw [decryptLoop, ih, feistel_succ_first]
    simp only [hslot]
    rfl

theorem encryptBlock_eq_feistel (ks : Schedule) (rounds : Nat) (l r : Word) :
    encryptBlock ks rounds l r = (feistel ks.read (rounds / 2) (l, r)).swap := by
  rw [encryptBlock, encryptLoop_eq_feistel]
  simp only [Nat.zero_add]
  rfl

theorem decryptBlock_eq_feistel (ks : Schedule) (rounds : Nat) (l r : Word) :
    decryptBlock ks rounds l r = (feistel (fun j => ks.read (rounds - 1 - j)) (rounds / 2) (l, r)).swap := by
  rw [decryptBlock, decryptLoop_eq_feistel]
  rfl

/-! What follows of the two block functions. -/

section
variable {ks : Schedule} {rounds : Nat} (heven : rounds % 2 = 0)
include heven

/-- DECRYPT undoes ENCRYPT (R116). -/
theorem decryptBlock_encryptBlock (l r : Word) :
    decryptBlock ks rounds (encryptBlock ks rounds l r).1 (encryptBlock ks rounds l r).2 = (l, r) := by
  rw [decryptBlock_eq_feistel, encryptBlock_eq_feistel, Prod.mk.eta, feistel_swap_feistel, Prod.swap_swap]
  intro j hj
  congr 1
  omega

/-- ENCRYPT undoes DECRYPT (R116). -/
theorem encryptBlock_decryptBlock (l r : Word) :
    encryptBlock ks rounds (decryptBlock ks rounds l r).1 (decryptBlock ks rounds l r).2 = (l, r) := by
  rw [encryptBlock_eq_feistel, decryptBlock_eq_feistel, Prod.mk.eta, feistel_swap_feistel, Prod.swap_swap]
  intro j hj
  congr 1
  omega

/-- A schedule that reads the same both ways (R117). -/
theorem encryptBlock_eq_decryptBlock (hks : ∀ i < rounds, ks.read i = ks.read (rounds - 1 - i)) (l r : Word) :
    encryptBlock ks rounds l r = decryptBlock ks rounds l r := by
  rw [encryptBlock_eq_feistel, decryptBlock_eq_feistel, feistel_congr fun j hj => hks j (by omega)]

end

/-! The two commands. -/

theorem exec_encrypt_eight (s : State) :
    exec (.encrypt 8) s = .next ((s.setOutput (encryptBlock s.ks s.rounds.toNat s.din0 s.din1)).complete .ok) := rfl

theorem exec_decrypt_eight (s : State) :
    exec (.decrypt 8) s = .next ((s.setOutput (decryptBlock s.ks s.rounds.toNat s.din0 s.din1)).complete .ok) := rfl

/-- Settles O27: the halves of the recurrence on slots 0, 1, .. are the turns', and the block is their swap. -/
theorem encryptRunsTheRoundsInOrder : Obligations.EncryptRunsTheRoundsInOrder := by
  intro s n l r hn hl hr hrec
  have hblock : encryptBlock s.ks s.rounds.toNat s.din0 s.din1 = (r n, l n) := by
    rw [hn, ← hl, ← hr, encryptBlock_eq_feistel, Nat.mul_div_cancel_left n two_pos, feistel_of_recurrence hrec]
    rfl
  rw [exec_encrypt_eight, hblock]
  rfl

/-- Settles O28: the same for the slots ROUNDS-1, ROUNDS-2, .., 0. -/
theorem decryptRunsTheRoundsInReverse : Obligations.DecryptRunsTheRoundsInReverse := by
  intro s n l r hn hl hr hrec
  have hslots : ∀ k < n, l (k + 1) = l k ^^^ roundF (r k) (s.ks.read (2 * n - 1 - 2 * k)) ∧
      r (k + 1) = r k ^^^ roundF (l (k + 1)) (s.ks.read (2 * n - 1 - (2 * k + 1))) := by
    intro k hk
    have hfirst : 2 * n - 1 - 2 * k = 2 * (n - k) - 1 := by omega
    have hsecond : 2 * n - 1 - (2 * k + 1) = 2 * (n - k) - 2 := by omega
    rw [hfirst, hsecond]
    exact hrec k hk
  have hblock : decryptBlock s.ks s.rounds.toNat s.din0 s.din1 = (r n, l n) := by
    rw [hn, ← hl, ← hr, decryptBlock_eq_feistel, Nat.mul_div_cancel_left n two_pos,
      feistel_of_recurrence (sk := fun j => s.ks.read (2 * n - 1 - j)) hslots]
    rfl
  rw [exec_decrypt_eight, hblock]
  rfl

/-- Settles O29: the block functions undo each other, and read DIN0, DIN1, ROUNDS and KS only. -/
theorem decryptAndEncryptAreInverse : Obligations.DecryptAndEncryptAreInverse := by
  refine ⟨fun s t heven => ⟨fun ht => ?_, fun ht => ?_⟩, fun s s' h0 h1 hrounds hks => ?_⟩
  · rw [exec_encrypt_eight] at ht
    cases ht
    have hinv := decryptBlock_encryptBlock (ks := s.ks) heven s.din0 s.din1
    exact ⟨_, exec_decrypt_eight _, congrArg Prod.fst hinv, congrArg Prod.snd hinv⟩
  · rw [exec_decrypt_eight] at ht
    cases ht
    have hinv := encryptBlock_decryptBlock (ks := s.ks) heven s.din0 s.din1
    exact ⟨_, exec_encrypt_eight _, congrArg Prod.fst hinv, congrArg Prod.snd hinv⟩
  · simp only [exec_encrypt_eight, exec_decrypt_eight, h0, h1, hrounds, hks]
    exact ⟨_, _, _, _, rfl, rfl, rfl, rfl, rfl, rfl, rfl, rfl⟩

/-- The zero block in unkeyed thin mode (R118). -/
theorem encryptBlock_unkeyed_zero : encryptBlock [] 8 0 0 = (0x220EE2B2, 0x9C781C03) := by decide +kernel

theorem exec_encrypt_eq_exec_decrypt {s : State} (heven : s.rounds.toNat % 2 = 0)
    (hks : ∀ i < s.rounds.toNat, s.ks.read i = s.ks.read (s.rounds.toNat - 1 - i)) :
    exec (.encrypt 8) s = exec (.decrypt 8) s := by
  rw [exec_encrypt_eight, exec_decrypt_eight, encryptBlock_eq_decryptBlock heven hks]

/-- Settles O30: such a schedule makes the block functions the same, an empty one reads as the zero subkey everywhere, and the
two words are computed. -/
theorem palindromicScheduleMakesThemEqual : Obligations.PalindromicScheduleMakesThemEqual := by
  refine ⟨fun s => exec_encrypt_eq_exec_decrypt, fun s h hkeyed => ?_, fun s hks hrounds h0 h1 => ?_⟩
  · obtain ⟨heven, -⟩ := h.rounds_even_ge_eight
    exact exec_encrypt_eq_exec_decrypt heven fun i _ => by simp [h.unkeyed hkeyed]
  · have heq : exec (.encrypt 8) s = exec (.decrypt 8) s :=
      exec_encrypt_eq_exec_decrypt (by rw [hrounds]; rfl) fun i _ => by simp [hks]
    have hblock : encryptBlock s.ks s.rounds.toNat s.din0 s.din1 = (0x220EE2B2, 0x9C781C03) := by
      rw [hks, hrounds, h0, h1]
      exact encryptBlock_unkeyed_zero
    rw [← heq, exec_encrypt_eight, hblock]
    exact ⟨_, rfl, rfl, rfl, rfl⟩

end Sys2Proof.Machine
end

section
/-! The driver's block operations on an idle core (R123, R125). What holds of both is stated over the direction. -/

namespace Sys2Proof.Machine

/-! The command and the block function of a direction. -/

def Direction.instr (d : Direction) (len : BitVec 16) : Instr :=
  match d with
  | .encrypt => .encrypt len
  | .decrypt => .decrypt len

def Direction.block (d : Direction) (ks : Schedule) (rounds : Nat) (l r : Word) : Word × Word :=
  match d with
  | .encrypt => encryptBlock ks rounds l r
  | .decrypt => decryptBlock ks rounds l r

theorem assemble_command (d : Direction) {n : Nat} (hn : n ≤ 65535) :
    assemble (d.command n) = some (encode (d.instr (BitVec.ofNat 16 n))) := by
  obtain ⟨-, hwords, -⟩ := assemblerWordsAreTheCommands
  obtain ⟨-, -, hencrypt, hdecrypt⟩ := hwords n hn
  cases d with
  | encrypt => exact hencrypt
  | decrypt => exact hdecrypt

theorem exec_instr_eight (d : Direction) (s : State) :
    exec (d.instr 8) s = .next ((s.setOutput (d.block s.ks s.rounds.toNat s.din0 s.din1)).complete .ok) := by
  cases d with
  | encrypt => exact exec_encrypt_eight s
  | decrypt => exact exec_decrypt_eight s

theorem exec_instr_wrong_length (d : Direction) {len : BitVec 16} (hlen : len.toNat ≠ 8) (s : State) :
    exec (d.instr len) s = .next (s.complete .blocklen) := by
  obtain ⟨-, hblock⟩ := wrongLengthsAreRefused len s
  obtain ⟨hencrypt, hdecrypt⟩ := hblock hlen
  cases d with
  | encrypt => exact hencrypt
  | decrypt => exact hdecrypt

/-! The operations. -/

/-- The core is out of reset and idle, with these subkeys and this many rounds: what the block operations ask and keep. -/
structure State.IdleWith (ks : Schedule) (rounds : Nat) (s : State) : Prop where
  rst : s.rst = false
  busy : s.busy = false
  ks : s.ks = ks
  rounds : s.rounds.toNat = rounds

theorem runReport_command {d : Direction} {n : Nat} {s t : State} (hr : s.rst = false) (hb : s.busy = false)
    (hn : n ≤ 65535)
    (he : exec (d.instr (BitVec.ofNat 16 n)) { s.accept (encode (d.instr (BitVec.ofNat 16 n))) with reply := .written } =
      .next t) :
    runReport (d.command n) s = some (errReport t.err, { t with reply := .data t.statusWord }) :=
  runReport_idle hr hb (assemble_command d hn) (decode_eq_ok_iff.mpr rfl) he

/-- The command with the length 8 puts the block in the output registers. -/
theorem runReport_block (d : Direction) {ks : Schedule} {rounds : Nat} {s : State} (h : s.IdleWith ks rounds) :
    ∃ t, runReport (d.command 8) s = some (.done, t) ∧ t.IdleWith ks rounds ∧
      (t.dout0, t.dout1) = d.block ks rounds s.din0 s.din1 := by
  obtain ⟨hr, hb, rfl, rfl⟩ := h
  have hinit : s.initialising = false := (Bool.or_eq_false_iff.mp hb).2
  exact ⟨_, runReport_command hr hb (by decide) (exec_instr_eight d _), ⟨hr, hinit, rfl, rfl⟩, rfl⟩

/-- The command with any other length reports it. -/
theorem runReport_wrong_length (d : Direction) {n : Nat} {s : State} (hr : s.rst = false) (hb : s.busy = false)
    (hn : n ≤ 65535) (hne : n ≠ 8) : ∃ t, runReport (d.command n) s = some (.invalidBlockLength, t) := by
  have hlen : (BitVec.ofNat 16 n).toNat ≠ 8 := by
    rw [BitVec.toNat_ofNat]
    omega
  exact ⟨_, runReport_command hr hb hn (exec_instr_wrong_length d hlen _)⟩

/-- The bytes of two registers, one after the other (R123). -/
def pairBytes (o : Word × Word) : List Byte := wordBytes o.1 ++ wordBytes o.2

/-- What a block operation makes of eight bytes. -/
def Direction.blockBytes (d : Direction) (ks : Schedule) (rounds : Nat) (b : List Byte) : List Byte :=
  pairBytes (d.block ks rounds (be32 b 0) (be32 b 4))

/-- The two writes of a block operation leave an idle core that holds the block. -/
theorem wr_block_idle (l r : Word) {ks : Schedule} {rounds : Nat} {s : State} (h : s.IdleWith ks rounds) :
    ((s.wr .din0 l).wr .din1 r).IdleWith ks rounds ∧ ((s.wr .din0 l).wr .din1 r).din0 = l ∧
      ((s.wr .din0 l).wr .din1 r).din1 = r := by
  have hwrites : (s.wr .din0 l).wr .din1 r = { s with din0 := l, din1 := r, reply := .written } := by
    rw [wr_idle (r := .din0) l h.busy trivial]
    exact wr_idle (r := .din1) r h.busy trivial
  rw [hwrites]
  exact ⟨{ h with }, rfl, rfl⟩

/-- A read of an idle core's register gives its value and leaves all but the port's response. -/
theorem rd_idleWith {r : Reg} {ks : Schedule} {rounds : Nat} {s : State} (h : s.IdleWith ks rounds) (hr : r.exists s.cfg) :
    (s.rd r).1 = s.regValue r ∧ (s.rd r).2.IdleWith ks rounds ∧ (s.rd r).2.dout1 = s.dout1 := by
  rw [rd_idle h.busy hr]
  exact ⟨rfl, { h with }, rfl⟩

theorem libBlock_idle (d : Direction) (early : Bool) {b : List Byte} (hlen : b.length = 8) {ks : Schedule} {rounds : Nat}
    {s : State} (h : s.IdleWith ks rounds) :
    ∃ t, libBlock d early b s = (.ok (d.blockBytes ks rounds b), t) ∧ t.IdleWith ks rounds := by
  obtain ⟨hwritten, hdin0, hdin1⟩ := wr_block_idle (be32 b 0) (be32 b 4) h
  obtain ⟨t, ht, hdone, hout⟩ := runReport_block d hwritten
  obtain ⟨hvalue0, hidle0, hkept⟩ := rd_idleWith (r := .dout0) hdone trivial
  obtain ⟨hvalue1, hidle1, -⟩ := rd_idleWith (r := .dout1) hidle0 trivial
  refine ⟨_, ?_, hidle1⟩
  rw [hdin0, hdin1] at hout
  rw [Direction.blockBytes, ← hout, libBlock, if_pos hlen]
  simp only [ht, hvalue0, hvalue1, State.regValue, hkept, pairBytes]

theorem libBlock_wrong_length (d : Direction) (early : Bool) {b : List Byte} (hlen : b.length ≠ 8) {s : State}
    (hr : s.rst = false) (hb : s.busy = false) : (libBlock d early b s).1 = .error .invalidBlockLength := by
  obtain ⟨t, ht⟩ := runReport_wrong_length d hr hb (Nat.min_le_right b.length 0xFFFF) (by omega)
  rw [libBlock, if_neg hlen]
  cases early with
  | true => rfl
  | false => rw [if_neg Bool.false_ne_true, ht]

/-- Settles O59: the two writes, the command and the two reads; a wrong length is found by the driver or by the core. -/
theorem driverBlockOperationsReturnTheBlock : Obligations.DriverBlockOperationsReturnTheBlock := by
  refine fun s b early _ hr hb => ⟨fun hlen => ?_, fun hlen d => libBlock_wrong_length d early hlen hr hb⟩
  have hidle : s.IdleWith s.ks s.rounds.toNat := ⟨hr, hb, rfl, rfl⟩
  obtain ⟨t, ht, -⟩ := libBlock_idle .encrypt early hlen hidle
  obtain ⟨u, hu, -⟩ := libBlock_idle .decrypt early hlen hidle
  rw [ht, hu]
  exact ⟨rfl, rfl⟩

end Sys2Proof.Machine
end

section
/-! The bulk codec (R127, R128). A buffer of whole blocks is its chunks joined, so the codec is the block operation on each chunk;
a buffer that is already whole gets one more block of zeros. -/

namespace Sys2Proof.Machine

/-! Chunks and padding. -/

theorem chunks8_append {b rest : List Byte} (hb : b.length = 8) : chunks8 (b ++ rest) = b :: chunks8 rest := by
  have hcount : (b ++ rest).length / 8 = rest.length / 8 + 1 := by
    rw [List.length_append]
    omega
  have hdrop : ∀ k, (b ++ rest).drop (8 * (k + 1)) = rest.drop (8 * k) := fun k => by
    rw [Nat.mul_succ, Nat.add_comm, ← hb, List.drop_length_add_append]
  rw [chunks8, hcount, List.range_succ_eq_map, List.map_cons, List.map_map]
  refine congrArg₂ List.cons (List.take_left' hb) (List.map_congr_left fun k _ => ?_)
  exact congrArg (List.take 8) (hdrop k)

/-- The chunks of joined blocks are the blocks. -/
theorem chunks8_flatten_append {bs : List (List Byte)} (hbs : ∀ b ∈ bs, b.length = 8) (rest : List Byte) :
    chunks8 (bs.flatten ++ rest) = bs ++ chunks8 rest := by
  induction bs with
  | nil => rfl
  | cons b bs ih =>
    obtain ⟨hb, hbs⟩ := List.forall_mem_cons.mp hbs
    rw [List.flatten_cons, List.append_assoc, chunks8_append hb, ih hbs, List.cons_append]

theorem length_of_mem_chunks8 {b buf : List Byte} (hb : b ∈ chunks8 buf) : b.length = 8 := by
  obtain ⟨k, hk, rfl⟩ := List.mem_map.mp hb
  have hlt : k < buf.length / 8 := List.mem_range.mp hk
  rw [List.length_take, List.length_drop]
  omega

/-- The first `n` chunks of a buffer, joined. -/
theorem flatten_map_chunk (buf : List Byte) (n : Nat) :
    ((List.range n).map fun k => (buf.drop (8 * k)).take 8).flatten = buf.take (8 * n) := by
  induction n with
  | zero => rfl
  | succ n ih =>
    rw [List.range_succ, List.map_append, List.flatten_append, ih, List.map_singleton, List.flatten_singleton, Nat.mul_succ,
      List.take_add]

/-- The chunks of a whole number of blocks, joined, are the buffer. -/
theorem flatten_chunks8 {buf : List Byte} (hbuf : buf.length % 8 = 0) : (chunks8 buf).flatten = buf := by
  rw [chunks8, flatten_map_chunk, Nat.mul_div_cancel' (Nat.dvd_of_mod_eq_zero hbuf), List.take_length]

theorem length_padded (x : List Byte) : (padded x).length = x.length + padLength x.length := by
  rw [padded, List.length_append, List.length_replicate]

theorem length_padded_mod (x : List Byte) : (padded x).length % 8 = 0 := by
  rw [length_padded, padLength]
  omega

/-- The padding of a whole number of blocks is a block of zeros (R130). -/
theorem padded_flatten {bs : List (List Byte)} (hbs : ∀ b ∈ bs, b.length = 8) :
    padded bs.flatten = bs.flatten ++ List.replicate 8 0 := by
  have hdvd : 8 ∣ bs.flatten.length := by
    rw [List.length_flatten]
    exact List.dvd_sum (List.forall_mem_map.mpr fun b hb => (hbs b hb).symm.dvd)
  rw [padded, padLength, Nat.mod_eq_zero_of_dvd hdvd]

/-! Blocks of bytes. -/

theorem length_pairBytes (o : Word × Word) : (pairBytes o).length = 8 := rfl

theorem be32_pairBytes (o : Word × Word) : (be32 (pairBytes o) 0, be32 (pairBytes o) 4) = o :=
  congrArg₂ Prod.mk (wordOf_byteOf o.1) (wordOf_byteOf o.2)

theorem wordBytes_be32 (b : List Byte) (k : Nat) :
    wordBytes (be32 b k) = [b.getD k 0, b.getD (k + 1) 0, b.getD (k + 2) 0, b.getD (k + 3) 0] := by
  simp [wordBytes, byteOf_be32]

theorem pairBytes_be32 {b : List Byte} (hb : b.length = 8) : pairBytes (be32 b 0, be32 b 4) = b := by
  rw [pairBytes, wordBytes_be32, wordBytes_be32]
  match b, hb with
  | [_, _, _, _, _, _, _, _], _ => rfl

/-- The driver's `decrypt_block` undoes its `encrypt_block` (R116, R123). -/
theorem blockBytes_decrypt_encrypt (ks : Schedule) {rounds : Nat} (heven : rounds % 2 = 0) {b : List Byte}
    (hb : b.length = 8) :
    Direction.decrypt.blockBytes ks rounds (Direction.encrypt.blockBytes ks rounds b) = b := by
  obtain ⟨hleft, hright⟩ := Prod.mk.inj (be32_pairBytes (encryptBlock ks rounds (be32 b 0) (be32 b 4)))
  calc Direction.decrypt.blockBytes ks rounds (Direction.encrypt.blockBytes ks rounds b)
      = pairBytes (decryptBlock ks rounds (encryptBlock ks rounds (be32 b 0) (be32 b 4)).1
          (encryptBlock ks rounds (be32 b 0) (be32 b 4)).2) :=
        congrArg₂ (fun l r => pairBytes (decryptBlock ks rounds l r)) hleft hright
    _ = pairBytes (be32 b 0, be32 b 4) := by rw [decryptBlock_encryptBlock heven]
    _ = b := pairBytes_be32 hb

/-! The codec on an idle core. -/

theorem libChunks_idle (d : Direction) {bs : List (List Byte)} (hbs : ∀ b ∈ bs, b.length = 8) {ks : Schedule} {rounds : Nat}
    {s : State} (h : s.IdleWith ks rounds) :
    ∃ t, libChunks d bs s = (.ok (bs.map (d.blockBytes ks rounds)).flatten, t) ∧ t.IdleWith ks rounds := by
  induction bs generalizing s with
  | nil => exact ⟨s, rfl, h⟩
  | cons b bs ih =>
    obtain ⟨hb, hbs⟩ := List.forall_mem_cons.mp hbs
    obtain ⟨t, ht, hidle⟩ := libBlock_idle d true hb h
    obtain ⟨u, hu, hlast⟩ := ih hbs hidle
    refine ⟨u, ?_, hlast⟩
    rw [libChunks, ht]
    simp only [hu, List.map_cons, List.flatten_cons]

theorem libBuffer_idle (d : Direction) (x : List Byte) {ks : Schedule} {rounds : Nat} {s : State}
    (h : s.IdleWith ks rounds) :
    ∃ t, libBuffer d x s = (.ok ((chunks8 (padded x)).map (d.blockBytes ks rounds)).flatten, t) ∧ t.IdleWith ks rounds :=
  libChunks_idle d (fun _ => length_of_mem_chunks8) h

/-- What `decrypt_buffer` makes of `encrypt_buffer`'s blocks: their chunks are the padded input's, and the padding is one block of
zeros more (R130). -/
theorem flatten_decrypt_padded_encrypt (ks : Schedule) {rounds : Nat} (heven : rounds % 2 = 0) (x : List Byte) :
    ((chunks8 (padded ((chunks8 (padded x)).map (Direction.encrypt.blockBytes ks rounds)).flatten)).map
        (Direction.decrypt.blockBytes ks rounds)).flatten =
      padded x ++ pairBytes (decryptBlock ks rounds 0 0) := by
  have hblocks : ∀ b ∈ (chunks8 (padded x)).map (Direction.encrypt.blockBytes ks rounds), b.length = 8 :=
    List.forall_mem_map.mpr fun _ _ => length_pairBytes _
  have hundo : (chunks8 (padded x)).map (Direction.decrypt.blockBytes ks rounds ∘ Direction.encrypt.blockBytes ks rounds) =
      chunks8 (padded x) :=
    (List.map_congr_left fun _ hb => blockBytes_decrypt_encrypt ks heven (length_of_mem_chunks8 hb)).trans (List.map_id _)
  rw [padded_flatten hblocks, chunks8_flatten_append hblocks, List.map_append, List.map_map, hundo, List.flatten_append,
    flatten_chunks8 (length_padded_mod x)]
  rfl

/-- Settles O60: the codec's two runs, and what the second makes of the first's output. -/
theorem decryptBufferOfEncryptBuffer : Obligations.DecryptBufferOfEncryptBuffer := by
  intro s x h hr hb
  obtain ⟨heven, -⟩ := h.rounds_even_ge_eight
  obtain ⟨t, ht, hidle⟩ := libBuffer_idle .encrypt x (s := s) ⟨hr, hb, rfl, rfl⟩
  obtain ⟨u, hu, -⟩ := libBuffer_idle .decrypt
    ((chunks8 (padded x)).map (Direction.encrypt.blockBytes s.ks s.rounds.toNat)).flatten hidle
  rw [flatten_decrypt_padded_encrypt s.ks heven] at hu
  refine ⟨_, _, t, u, ht, hu, (List.append_assoc _ _ _).symm, ?_, ?_⟩
  · rw [List.length_append, length_padded, length_pairBytes]
  · rw [padded, List.append_assoc, List.take_left]

end Sys2Proof.Machine
end

section
/-! The padding (R127). -/

namespace Sys2Proof.Machine

theorem padLength_mem_range (n : Nat) : 1 ≤ padLength n ∧ padLength n ≤ 8 := by
  rw [padLength]
  omega

/-- A padded buffer is longer than its input, by eight bytes at most. -/
theorem length_padded_mem_range (x : List Byte) :
    x.length < (padded x).length ∧ (padded x).length ≤ x.length + 8 := by
  have hpad := padLength_mem_range x.length
  rw [length_padded]
  omega

/-- Settles O56: the padding's length and the multiple of 8 it leads to give every bound. -/
theorem paddingIsOneToEightZeroBytes : Obligations.PaddingIsOneToEightZeroBytes := by
  refine ⟨fun n => ⟨rfl, padLength_mem_range n⟩, fun x => ?_, rfl, rfl, rfl⟩
  obtain ⟨hlonger, hle⟩ := length_padded_mem_range x
  have hmod := length_padded_mod x
  have hblock : 8 ≤ (padded x).length := by omega
  exact ⟨rfl, length_padded x, hmod, hblock, hle, hlonger⟩

end Sys2Proof.Machine
end

section
/-! Host accesses while BUSY = 1, and the initialisation period, which ends without any other effect (R147, R149, R150). -/

namespace Sys2Proof.Machine

/-! Writes. -/

/-- R149's first row: CMD, the operand registers and KEYBUF. -/
theorem blockedWhileBusy_of_target {r : Reg}
    (h : r ∈ [Reg.cmd, .din0, .din1, .gfA, .gfB, .gfM, .permIn, .fIn, .sk0, .sk1, .sk2] ∨ ∃ w, r = .keybuf w) :
    r.blockedWhileBusy = true := by
  have hlow : ∀ r ∈ [Reg.cmd, .din0, .din1, .gfA, .gfB, .gfM, .permIn, .fIn, .sk0, .sk1, .sk2],
      r.blockedWhileBusy = true := by decide
  obtain hr | ⟨w, rfl⟩ := h
  · exact hlow r hr
  · rfl

/-- Settles O39, row by row: a blocked target, the two that take their fields, and the targets no write changes. -/
theorem busyWritesAreBlockedByTarget : Obligations.BusyWritesAreBlockedByTarget := by
  refine fun s off v hbusy => ⟨fun htarget => transfer_write_blocked v hbusy (blockedWhileBusy_of_target htarget),
    fun hstatus => ?_, fun hctrl => ?_, transfer_write_readOnly v⟩
  · rw [transfer_write_performed v (.inr (by rw [hstatus]; rfl)), hstatus]
    rfl
  · rw [transfer_write_performed v (.inr (by rw [hctrl]; rfl)), hctrl]
    rfl

/-! Reads. -/

/-- A read that R150 leaves unspecified draws the next free value, within the register's meaningful bits, and changes nothing
else (log 5). -/
theorem transfer_read_unspecified {off : Nat} {s : State} (hbusy : s.busy = true)
    (hr : (regAt s.cfg off).unspecifiedWhileBusy = true) :
    s.transfer off .read =
      { s with reply := .data (Config.freeRead s.draws &&& (regAt s.cfg off).meaningful), draws := s.draws + 1 } := by
  simp [State.transfer, State.readReg, hbusy, hr]

theorem meaningful_eq (r : Reg) : r.meaningful = if r = .gfRes then 0xFF else 0xFFFFFFFF := by
  cases r <;> rfl

/-- R150's first group: the result registers, SIZE, ROUNDS and KEYLEN. -/
theorem unspecifiedWhileBusy_of_mem : ∀ r ∈
    [Reg.dout0, .dout1, .gfRes, .permOut, .sboxOut, .fOut, .size, .rounds, .keylen], r.unspecifiedWhileBusy = true := by
  decide

/-- R150's second group: the registers a busy core's reads give exactly. -/
theorem specifiedWhileBusy_of_mem : ∀ r ∈
    [Reg.status, .ctrl, .nmax, .id, .din0, .din1, .gfA, .gfB, .gfM, .permIn, .fIn, .sk0, .sk1, .sk2],
    r.unspecifiedWhileBusy = false := by
  decide

/-- R150's third group reads 0 at any time (R21, R43, R44). -/
theorem transfer_read_zero {off : Nat} {s : State}
    (h : regAt s.cfg off = .cmd ∨ regAt s.cfg off = .reserved ∨ ∃ w, regAt s.cfg off = .keybuf w) :
    s.transfer off .read = { s with reply := .data 0 } := by
  obtain hr | hr | ⟨w, hr⟩ := h <;> rw [transfer_read_specified (.inr (by rw [hr]; rfl)), hr] <;> rfl

/-- Settles O40, group by group. -/
theorem busyReadsAreUnspecifiedByRegister : Obligations.BusyReadsAreUnspecifiedByRegister := by
  refine fun s off => ⟨fun hbusy => ⟨fun hr => ?_, fun hr => ?_, fun hr => ?_⟩, transfer_read_frame off s, fun hidle => ?_⟩
  · rw [transfer_read_unspecified hbusy (unspecifiedWhileBusy_of_mem _ hr), ← meaningful_eq]
    exact ⟨rfl, rfl⟩
  · rw [transfer_read_specified (.inr (specifiedWhileBusy_of_mem _ hr))]
  · rw [transfer_read_zero hr]
  · rw [transfer_read_idle off hidle]

/-! The initialisation period. -/

/-- Settles O46: the invariant has nothing in flight and nothing done during the initialisation. -/
theorem initialisationEndsQuietly : Obligations.InitialisationEndsQuietly := by
  intro s h hr hinit
  obtain ⟨hinflight, hdone, -⟩ := h.init hinit
  have hbusy : s.busy = true := by rw [State.busy, hinit, Bool.or_true]
  have hmove : coreMove s = .next s.endInit := by simp [coreMove, hr, hinit]
  have hidle : s.endInit.busy = false := by simp [State.busy, hinflight]
  have hirq : s.endInit.irq = false := by simp [State.irq, hdone]
  exact ⟨hbusy, hmove, hidle, hirq, fun v => transfer_write_blocked v hbusy rfl⟩

end Sys2Proof.Machine
end

section
/-! The expansion's field form (R109; log 1): both words are windows of the half-block, one after the other. -/

namespace Sys2Proof.Machine

theorem expandLeft_eq_append (p : Word) :
    expandLeft p = p.extractLsb' 0 2 ++ p.extractLsb' 24 8 ++ p.extractLsb' 16 10 := by
  refine BitVec.eq_of_getLsbD_eq fun i hi => ?_
  simp only [getLsbD_expandLeft p hi, BitVec.getLsbD_append, BitVec.getLsbD_extractLsb']
  interval_cases i <;> simp

theorem expandRight_eq_append (p : Word) : expandRight p = p.extractLsb' 8 10 ++ p.extractLsb' 0 10 := by
  refine BitVec.eq_of_getLsbD_eq fun i hi => ?_
  simp only [getLsbD_expandRight p hi, BitVec.getLsbD_append, BitVec.getLsbD_extractLsb']
  interval_cases i <;> simp

/-- Bits appended are digits to the base 2 ^ n. -/
theorem toNat_append_eq_add {m n : Nat} (x : BitVec m) (y : BitVec n) : (x ++ y).toNat = x.toNat * 2 ^ n + y.toNat := by
  rw [BitVec.toNat_append, ← Nat.shiftLeft_add_eq_or_of_lt y.isLt, Nat.shiftLeft_eq]

/-- Settles O19: the windows' numbers are slices, each weighted by the width of those below it. -/
theorem expansionIsFourWindows : Obligations.ExpansionIsFourWindows := by
  refine fun p => ⟨?_, ?_⟩
  · rw [expandLeft_eq_append, toNat_append_eq_add, toNat_append_eq_add, slice_eq_toNat, slice_eq_toNat, slice_eq_toNat]
    ring
  · rw [expandRight_eq_append, toNat_append_eq_add, slice_eq_toNat, slice_eq_toNat]

end Sys2Proof.Machine
end
